-- ==== Sys2Proof/Word.lean ====
section
/-! DEFINITION. The two word types of XCrypt CORE: a byte is an unsigned number of 8 bits, a HashValue an unsigned number of
32 bits (00_scope.md R5, R6). No value of the block is signed. -/

namespace Sys2Proof

/-- A byte, an unsigned integer in 0..255 (R6). -/
abbrev Byte := BitVec 8

/-- A HashValue, an unsigned integer in 0..2^32-1 (R6, R9). -/
abbrev Word := BitVec 32

end Sys2Proof
end

