-- ==== Sys2Proof/Syntax.lean ====
section
/-! DEFINITION. The instructions of XCrypt CORE: the four commands of 30_encoding.md R45, one constructor per row of
spec/opcode_table.json. A command's opcode byte has no register field, immediate, mode bit or function field (R46, R50), so a
constructor has no argument: the operands are the buffers DATA and KEY of the state. -/

namespace Sys2Proof

/-- The command set (R45, R51). The pseudo-instructions ENCRYPT and DECRYPT have no opcode (R56); see Machine/Paths.lean. -/
inductive Instr where
  /-- `XORT data, key`: the repeating-key XOR (R61); the source's `xorTransform`. -/
  | xort
  /-- `FNVD data`: the FNV-1a 32-bit digest (R72); the source's `fnvDigest`. -/
  | fnvd
  /-- `FRAME payload`: append the checksum trailer (R81); the source's `addChecksum`. -/
  | frame
  /-- `UNFRM framed`: check and strip the trailer (R85); the source's `verifyChecksum`. -/
  | unfrm
  deriving DecidableEq, Repr

end Sys2Proof
end

