-- ==== Sys2Proof/WellFormed.lean ====
section
/-! DEFINITION. Well-formedness of what a host may present as a command. An `Instr` has no field that could be out of range
(30_encoding.md R46, R50), so the one check on a command's own bits is the one on its opcode byte (R52). The check on its
operands' lengths (R53) needs the state and stands in Machine/Operands.lean (`admitted`). -/

namespace Sys2Proof

/-- R52: "Opcode values 0x00 and 0x05 to 0xFF are reserved." Written from R52's own ranges, not from the opcode map, so that
the decoder can be held against it. -/
def opcodeReserved (b : Byte) : Bool :=
  b == 0x00#8 || (0x05#8 ≤ b && b ≤ 0xFF#8)

/-- An opcode byte is well-formed when R52 does not reserve it. -/
def opcodeWellFormed (b : Byte) : Bool :=
  !opcodeReserved b

/-- A command as bytes is well-formed when it is exactly one byte long (R57) and that byte is not reserved (R52). -/
def commandWellFormed : List Byte → Bool
  | [b] => opcodeWellFormed b
  | _ => false

end Sys2Proof
end

