-- ==== Sys2Proof/Decode.lean ====
section
/-! DEFINITION. The decoder and the encoder (30_encoding.md R46, R51, R52, R57). A command is exactly one opcode byte, matched
whole (mask 0xFF); every other byte is reserved and is rejected by name. -/

namespace Sys2Proof

/-- One row of the opcode map: the command whose opcode byte, under `mask`, is `pattern` (R51, spec/opcode_table.json). -/
structure OpcodeRow where
  pattern : Byte
  mask : Byte
  instr : Instr
  deriving DecidableEq, Repr

/-- The opcode map of R51, row by row. -/
def opcodeMap : List OpcodeRow :=
  [ ⟨0x01#8, 0xFF#8, .xort⟩,
    ⟨0x02#8, 0xFF#8, .fnvd⟩,
    ⟨0x03#8, 0xFF#8, .frame⟩,
    ⟨0x04#8, 0xFF#8, .unfrm⟩ ]

/-- A byte matches a row when it agrees with the row's pattern on the mask's bits. -/
def OpcodeRow.matchesByte (r : OpcodeRow) (b : Byte) : Bool :=
  b &&& r.mask == r.pattern

/-- The command an opcode byte selects by its whole value (R51); none for a reserved byte (R52). -/
def decodeByte (b : Byte) : Option Instr :=
  (opcodeMap.find? (fun r => r.matchesByte b)).map (fun r => r.instr)

/-- What a decoder finds at the head of a sequence of bytes. -/
inductive Decoded where
  /-- A command, and the bytes after it: every command is exactly one byte (R57). -/
  | command (i : Instr) (rest : List Byte)
  /-- A reserved opcode byte, rejected by name (R52). -/
  | reserved (b : Byte)
  /-- There is no byte to decode. -/
  | nothing
  deriving DecidableEq, Repr

/-- The decoder, total on any bytes. -/
def decode : List Byte → Decoded
  | [] => .nothing
  | b :: rest =>
    match decodeByte b with
    | some i => .command i rest
    | none => .reserved b

/-- The opcode byte of a command (R51). -/
def opcode : Instr → Byte
  | .xort => 0x01#8
  | .fnvd => 0x02#8
  | .frame => 0x03#8
  | .unfrm => 0x04#8

/-- The bytes of a command: its opcode byte and nothing else (R46, R57). -/
def encode (i : Instr) : List Byte :=
  [opcode i]

/-- The `n` bytes of the number `w`, the byte of weight 2^0 first: how a command given as one number is laid out in bytes. -/
def bytesOfNumber : Nat → Nat → List Byte
  | 0, _ => []
  | n + 1, w => BitVec.ofNat 8 w :: bytesOfNumber n (w / 256)

/-- The command the decoder reads from an instruction of `nbits` bits whose bits are `w`, numbered as spec/opcode_table.json
numbers them. -/
def decodeTableWord (nbits w : Nat) : Option Instr :=
  match decode (bytesOfNumber ((nbits + 7) / 8) w) with
  | .command i _ => some i
  | .reserved _ => none
  | .nothing => none

end Sys2Proof
end

