-- ==== Sys2Proof/Config.lean ====
section
/-! DEFINITION. What an implementation of XCrypt CORE fixes (00_scope.md R5), and the free values: what the spec leaves
unspecified after a reset (10_state.md R25, 93_implementation_defined.md U5). All instances and all runs draw from the same
constants: DESIGN CHOICE, unsafe (notes/assumptions 19). -/

namespace Sys2Proof

/-- The open parameters of one instance. `lenw` is `LENW`, the width in bits of every length and index register: `some w`, or
`none` for the unbounded reading the spec also allows (R5, 92_eei_decisions.md D5). Every statement is about every value of
it. The other open names of the spec, `PORTMAP` and `PASSWORD_DIGEST`, are read by no rule and are not here. -/
structure Config where
  lenw : Option Nat
  deriving DecidableEq, Repr

/-- What an 8-bit working register holds after a reset (R25): a free value, applied to a counter of State. -/
opaque Config.freeByte : Nat → Byte

/-- What a 32-bit working register holds after a reset (R25): a free value, applied to a counter of State. -/
opaque Config.freeWord : Nat → Word

/-- What a working length or index register holds after a reset (R25), before it is cut to `LENW` bits: a free value,
applied to a counter of State. -/
opaque Config.freeLen : Nat → Nat

end Sys2Proof
end

