-- ==== Sys2Proof/Machine/State.lean ====
section
/-! DEFINITION. The state of one instance of XCrypt CORE (10_state.md R11, R12, 20_memory.md R30), the moves of its host, the
reasons a step can stop, and the state after reset (R25). -/

namespace Sys2Proof.Machine

/-- The three byte spaces (R30): each is its own index space, from 0. -/
inductive Space where
  /-- The data operand; written by the host, read by the block. -/
  | data
  /-- The key operand of XORT; written by the host, read by the block. -/
  | key
  /-- The byte result; written by the block, read by the host after completion. -/
  | out
  deriving DecidableEq, Repr

/-- The bytes of one space: (index, byte) pairs. The canonical form, indices strictly rising, is `Memory.wf`
(Machine/Ops.lean). DESIGN CHOICE (notes/assumptions 7): an index that is not listed holds no byte. -/
abbrev Memory := List Host.Cell

/-- What a host can read of a response (R12, R21): the four response registers and the buffer OUT. -/
inductive RespReg where
  | st
  | okf
  | olen
  | hv
  | out
  deriving DecidableEq, Repr

/-- The three error kinds (60_exceptions.md R105). They are ordinary results of a command, not faults (R121). -/
inductive ErrorKind where
  /-- XORT with an empty key (R106). -/
  | invalidKey
  /-- UNFRM of fewer than 4 bytes (R107). -/
  | tooShort
  /-- UNFRM of a buffer whose trailer is not its payload's digest (R108). -/
  | checksumMismatch
  deriving DecidableEq, Repr

/-- A result of a pure function of the spec: `Ok(value)` or `Err(kind)` (00_scope.md R8). -/
inductive Result where
  | ok (bytes : List Byte)
  | err (kind : ErrorKind)
  deriving DecidableEq, Repr

/-- Why the machine stops with a fault. Both are faults of the host's program (10_state.md R26, 60_exceptions.md R121). -/
inductive Fault where
  /-- Raised by a host's move that reads a response register, or OUT, while it has no value (R26: "a model treats such a
  read as a fault of the host's program"). Safe: the model stops where the spec forbids the read. -/
  | noValue (r : RespReg)
  /-- Raised by a read of an index that does not exist in its buffer: a host's read of OUT at or above OLEN (R26: "`OUT`
  beyond `OLEN` does not exist"). A command's own reads go through the same operation and never raise it (R33). Safe. -/
  | noSuchByte (space : Space) (index : Nat)
  deriving DecidableEq, Repr

/-- Why the machine refuses. -/
inductive Refusal where
  /-- Raised by exec's arm of an instruction that has no meaning yet; no arm answers it now. Safe. -/
  | notModelled (mnemonic : String)
  /-- Raised by the issue of a reserved opcode: "a model must refuse a command with a reserved opcode (it has no step and no
  response)" (R52). Safe. -/
  | reservedOpcode (op : Byte)
  /-- Raised by a command whose operands or result do not fit the length registers (R53). Safe. -/
  | overCapacity
  deriving DecidableEq, Repr

/-- One move of the host. The spec gives the host these moves and no other: it places operands before a command (R30, R129),
issues commands one at a time (R17, R40), reads the response after completion (R11, R41), hands one command's output on
(R101, R136) and applies reset (R125). DEDUCED (notes/assumptions 9): it has no move during a
command (R41 (c), 93_implementation_defined.md U7). -/
inductive HostMove where
  /-- Place these bytes in DATA (R30, R129). -/
  | putData (bytes : List Byte)
  /-- Place these bytes in KEY (R30, R129). -/
  | putKey (bytes : List Byte)
  /-- Hand OUT to the next command as its DATA, as a copy (R136). -/
  | passOut
  /-- Issue the command with this opcode byte (R46). -/
  | issue (op : Byte)
  /-- The second command of a path: when ST = OK, hand OUT on as DATA and issue this opcode; after an error issue nothing
  (R101). -/
  | chain (op : Byte)
  /-- Issue the command with this opcode byte and apply reset before it completes (R125, U8). DEDUCED (notes/assumptions 10). -/
  | abandon (op : Byte)
  /-- Apply reset while the block is idle (R125). -/
  | reset
  /-- Read ST (R20). -/
  | readSt
  /-- Read OKF (R19). -/
  | readOkf
  /-- Read OLEN (R21). -/
  | readOlen
  /-- Read HV (R22). -/
  | readHv
  /-- Read the byte of OUT at an index (R21, R30). -/
  | readOut (index : Nat)
  deriving DecidableEq, Repr

/-- A value the host has read out of the block. -/
inductive Seen where
  | st (v : BitVec 2)
  | okf (v : BitVec 1)
  | olen (v : Nat)
  | hv (v : Word)
  | out (index : Nat) (v : Byte)
  deriving DecidableEq, Repr

/-- The state of one instance. DESIGN CHOICE (notes/assumptions 16): a length or index register is a natural number, and that it
fits `LENW` bits is an invariant (`State.Inv`, Safety.lean). A response register that has "no value" (R26) is `none`. -/
structure State where
  /-- The open parameters of the instance (R5); no step changes them. DESIGN CHOICE (notes/assumptions 3). -/
  cfg : Config
  /-- `OP`: opcode of the command in progress or last issued (R12, R18). -/
  op : Byte
  /-- `DLEN`: length of DATA, latched at issue (R12, R18). -/
  dlen : Nat
  /-- `KLEN`: length of KEY, latched at issue of XORT only (R12, R18). -/
  klen : Nat
  /-- `IDX`: index of the data byte being processed (R12, R14). -/
  idx : Nat
  /-- `KIDX`: index of the key byte in use (R12, R15). -/
  kidx : Nat
  /-- `ACC`: the FNV-1a accumulator (R12, R13). -/
  acc : Word
  /-- `SH`: the storedHash of UNFRM (R12, R16). -/
  sh : Word
  /-- `ST`: status code of the last completed command (R12, R20). -/
  st : Option (BitVec 2)
  /-- `OKF`: 1 when ST = 0 (R12, R19). -/
  okf : Option (BitVec 1)
  /-- `OLEN`: length of OUT (R12, R21). -/
  olen : Option Nat
  /-- `HV`: HashValue result of FNVD (R12, R22). -/
  hv : Option Word
  /-- `DATA`: the data operand (R30). -/
  data : Memory
  /-- `KEY`: the key operand (R30). -/
  key : Memory
  /-- `OUT`: the byte result (R30). -/
  out : Memory
  /-- The host's moves still to come, oldest first: the model's own field, the outside world of R41. DESIGN CHOICE
  (notes/assumptions 4). -/
  host : List HostMove
  /-- What the host has read, oldest first: the model's own field, on the host's side. DESIGN CHOICE (notes/assumptions 5). -/
  seen : List Seen
  /-- How many free values have been drawn: the model's own field (Config.lean). DESIGN CHOICE (notes/assumptions 6, 19). -/
  freeCtr : Nat
  deriving DecidableEq, Repr

/-- The state right after reset (R25): idle, no response register and no OUT has a value. The spec leaves the working
registers unspecified, the operands to the host and `LENW` open: the values here are the model's, DESIGN CHOICE
(notes/assumptions 1, 2, 3). -/
def State.reset : State where
  cfg := ⟨none⟩
  op := 0#8
  dlen := 0
  klen := 0
  idx := 0
  kidx := 0
  acc := 0#32
  sh := 0#32
  st := none
  okf := none
  olen := none
  hv := none
  data := []
  key := []
  out := []
  host := []
  seen := []
  freeCtr := 0

end Sys2Proof.Machine
end

