-- ==== Sys2Proof/Machine/Flags.lean ====
section
/-! DEFINITION. The status codes and the one flag (10_state.md R19, R20). There is no carry, zero, sign or overflow flag. -/

namespace Sys2Proof.Machine

/-- The status code `OK` (R20). -/
def statusOk : BitVec 2 := 0#2

/-- The status code of an error kind (R20, 60_exceptions.md R105). -/
def ErrorKind.code : ErrorKind → BitVec 2
  | .invalidKey => 1#2
  | .tooShort => 2#2
  | .checksumMismatch => 3#2

/-- `OKF` as a function of the status written with it: 1 when ST = OK, 0 for every error code (R19). -/
def okfOf (st : BitVec 2) : BitVec 1 :=
  if st = statusOk then 1#1 else 0#1

end Sys2Proof.Machine
end

