-- ==== Sys2Proof/Machine/Ops.lean ====
section
/-! DEFINITION. The operations the commands share: sequencing, reads and writes of the byte spaces (00_scope.md R7, 20_memory.md
R30, R37), the end of a command with success (`complete`) or with an error (`raise`, 60_exceptions.md R112), and what reset does
to the block (70_reset_and_hazards.md R125). There is no return from an error: nothing is saved (R115). -/

namespace Sys2Proof.Machine

open Host (Outcome)

/-- Go on with `f` from the state an action leaves; a fault or a refusal ends it. -/
def andThen (o : Outcome State Fault Refusal) (f : State → Outcome State Fault Refusal) :
    Outcome State Fault Refusal :=
  match o with
  | .next s => f s
  | .fault r => .fault r
  | .refused r => .refused r

/-! ### The bytes of one space -/

/-- `MemRead(space, i, 1)`: the byte at index `i`; none where the space holds no byte there (R7, R37). -/
def Memory.read : Memory → Nat → Option Byte
  | [], _ => none
  | (a, b) :: m, i => if a = i then some b else Memory.read m i

/-- `MemWrite(space, i, 1, v)`: set the byte at index `i`, keeping the indices strictly rising (R7, R37). -/
def Memory.write : Memory → Nat → Byte → Memory
  | [], i, v => [(i, v)]
  | (a, b) :: m, i, v =>
    if i < a then (i, v) :: (a, b) :: m
    else if i = a then (i, v) :: m
    else (a, b) :: Memory.write m i v

/-- The bytes of a list at the indices from `k` up. -/
def Memory.placeFrom : Nat → List Byte → Memory
  | _, [] => []
  | k, b :: bs => (k, b) :: Memory.placeFrom (k + 1) bs

/-- A ByteBuffer as the contents of a space, indexed from 0 (R6, R30). -/
def Memory.ofBytes (bs : List Byte) : Memory :=
  Memory.placeFrom 0 bs

/-- The bytes at the indices `k`, `k + 1`, ... up to the first index that is not the next one listed. -/
def Memory.bytesFrom : Nat → Memory → List Byte
  | _, [] => []
  | k, (a, b) :: m => if a = k then b :: Memory.bytesFrom (k + 1) m else []

/-- The ByteBuffer a space holds: its bytes at the indices 0, 1, 2, ... up to the first index that holds none (R30; DESIGN CHOICE,
notes/assumptions 7). -/
def Memory.bytes (m : Memory) : List Byte :=
  Memory.bytesFrom 0 m

/-- `len` of a buffer (R6). -/
def Memory.len (m : Memory) : Nat :=
  (Memory.bytes m).length

/-- The indices are strictly rising and none is below `k`. -/
def Memory.risingFrom : Nat → Memory → Bool
  | _, [] => true
  | k, (a, _) :: m => decide (k ≤ a) && Memory.risingFrom (a + 1) m

/-- The canonical form: indices strictly rising. An unlisted index holds no byte, so no entry can repeat what an unlisted one
reads as. -/
def Memory.wf (m : Memory) : Bool :=
  Memory.risingFrom 0 m

/-- The space holds a ByteBuffer and nothing else: its indices are exactly 0 .. len-1 (R30). -/
def Memory.dense (m : Memory) : Bool :=
  m == Memory.ofBytes (Memory.bytes m)

/-! ### Accesses of the block (R7, R33) -/

/-- Read `DATA[i]` and go on with the byte. -/
def withData (i : Nat) (s : State) (f : Byte → Outcome State Fault Refusal) : Outcome State Fault Refusal :=
  match Memory.read s.data i with
  | some b => f b
  | none => .fault (.noSuchByte .data i)

/-- Read `KEY[j]` and go on with the byte. -/
def withKey (j : Nat) (s : State) (f : Byte → Outcome State Fault Refusal) : Outcome State Fault Refusal :=
  match Memory.read s.key j with
  | some b => f b
  | none => .fault (.noSuchByte .key j)

/-- `OUT[i] <- v`. -/
def writeOut (i : Nat) (v : Byte) (s : State) : State :=
  { s with out := Memory.write s.out i v }

/-- `IDX <- IDX + 1` after a byte (10_state.md R14). -/
def nextByte (s : State) : State :=
  { s with idx := s.idx + 1 }

/-! ### The response -/

/-- From the issue of a command until its completion no response register and no OUT has a value (10_state.md R26). -/
def clearResponse (s : State) : State :=
  { s with st := none, okf := none, olen := none, hv := none, out := [] }

/-- `complete` with `n` bytes of output: `ST <- OK`, `OKF <- 1`, `OLEN <- n` (00_scope.md R7, 10_state.md R19, R21). -/
def complete (n : Nat) (s : State) : State :=
  { s with st := some statusOk, okf := some (okfOf statusOk), olen := some n }

/-- `raise <Error>` (60_exceptions.md R112): `ST <- code`, `OKF <- 0`, `OLEN <- 0` so OUT is empty, HV has no value, and nothing
else: nothing is saved and no control is transferred. -/
def raise (e : ErrorKind) (s : State) : State :=
  { s with st := some e.code, okf := some (okfOf e.code), olen := some 0, hv := none, out := [] }

/-! ### Reset -/

/-- A free number cut to the width of a length register (R5). -/
def clip (c : Config) (n : Nat) : Nat :=
  match c.lenw with
  | none => n
  | some w => n % 2 ^ w

/-- Reset of the block, idle or with a command in progress (R125): no response register and no OUT has a value, the working
registers are unspecified (R25, U5, U8: free values, DEDUCED, notes/assumptions 6), DATA and KEY are unchanged (R31). Each free
value is a constant at a counter that every instance counts from 0, so two resets of two instances, or in two runs, that find
equal counters and equal `LENW` leave equal working registers, where the spec relates them in no way: DESIGN CHOICE, unsafe
(notes/assumptions 19). -/
def resetBlock (s : State) : State :=
  { clearResponse s with
    op := Config.freeByte s.freeCtr
    dlen := clip s.cfg (Config.freeLen s.freeCtr)
    klen := clip s.cfg (Config.freeLen (s.freeCtr + 1))
    idx := clip s.cfg (Config.freeLen (s.freeCtr + 2))
    kidx := clip s.cfg (Config.freeLen (s.freeCtr + 3))
    acc := Config.freeWord s.freeCtr
    sh := Config.freeWord (s.freeCtr + 1)
    freeCtr := s.freeCtr + 4 }

end Sys2Proof.Machine
end

