-- ==== Sys2Proof/Machine/Operands.lean ====
section
/-! DEFINITION. Operand forms (30_encoding.md R47), what a command latches at its issue (10_state.md R18), admission by capacity
(R53), and the `LE32` format of the trailer (R48, R49). -/

namespace Sys2Proof.Machine

open Host (Outcome)

/-- Whether KEY is an operand of the command: of XORT only (R47). -/
def keyIsOperand : Instr → Bool
  | .xort => true
  | .fnvd => false
  | .frame => false
  | .unfrm => false

/-- A length fits the length registers: it is at most `MAXLEN = 2^LENW - 1`; with `LENW` unbounded every length fits (R5). -/
def fits (c : Config) (n : Nat) : Bool :=
  match c.lenw with
  | none => true
  | some w => decide (n ≤ 2 ^ w - 1)

/-- `TRAILER_LEN` (R5). -/
def trailerLen : Nat := 4

/-- Admission by capacity (R53): `DLEN ≤ MAXLEN`; for XORT also `KLEN ≤ MAXLEN`; for FRAME also `DLEN + 4 ≤ MAXLEN`. -/
def admitted (i : Instr) (s : State) : Bool :=
  fits s.cfg (Memory.len s.data) &&
  match i with
  | .xort => fits s.cfg (Memory.len s.key)
  | .fnvd => true
  | .frame => fits s.cfg (Memory.len s.data + trailerLen)
  | .unfrm => true

/-- The issue of a command: `OP`, `DLEN` and, for XORT only, `KLEN` are latched (R18); the response loses its value (R26). -/
def latch (i : Instr) (s : State) : State :=
  { clearResponse s with
    op := opcode i
    dlen := Memory.len s.data
    klen := if keyIsOperand i then Memory.len s.key else s.klen }

/-- A command: refused when it is over capacity (R53), else latched (R18) and run. -/
def command (i : Instr) (body : State → Outcome State Fault Refusal) (s : State) : Outcome State Fault Refusal :=
  if admitted i s then body (latch i s) else .refused .overCapacity

/-- Bits `8 t + 7` down to `8 t` of a HashValue: `(h >> 8 t) AND 0xFF` (R6, R48). -/
def hashByte (h : Word) (t : Nat) : Byte :=
  (h >>> (8 * t)).truncate 8

/-- `LE32(h)`: the four bytes of a HashValue, least significant first (R48). -/
def le32 (h : Word) : List Byte :=
  [hashByte h 0, hashByte h 1, hashByte h 2, hashByte h 3]

/-- `zext_32(b)` (R6). -/
def zext32 (b : Byte) : Word :=
  b.zeroExtend 32

/-- `LE32dec(t0, t1, t2, t3)`: each byte zero-extended, the first the least significant (R49). -/
def le32dec (t0 t1 t2 t3 : Byte) : Word :=
  zext32 t0 + (zext32 t1 <<< 8) + (zext32 t2 <<< 16) + (zext32 t3 <<< 24)

end Sys2Proof.Machine
end

