-- ==== Sys2Proof/Machine/FnvHasher.lean ====
section
/-! DEFINITION. FnvHasher: the function Fnv1a32 (42_fnv_hasher.md R70, R71), the one hash datapath HashBytes (R73) and the
command FNVD (R72). -/

namespace Sys2Proof.Machine

open Host (Outcome)

/-! ### The function -/

/-- `FNV_OFFSET_BASIS`, hardwired (10_state.md R23). -/
def fnvOffsetBasis : Word := 2166136261#32

/-- `FNV_PRIME`, hardwired (10_state.md R23). -/
def fnvPrime : Word := 16777619#32

/-- `FnvStep(a, b)`: XOR with the zero-extended byte first, then multiply modulo 2^32 (R71, R74, R76;
the widening of the byte is UNVERIFIED against the original program, notes/assumptions 12). The product is written
with the prime on the left, which is the same product: in that order Lean's kernel does not unfold the prime by ones when it
compares two states. -/
def fnvStep (a : Word) (b : Byte) : Word :=
  fnvPrime * (a ^^^ zext32 b)

/-- The recurrence of R70 from any accumulator. -/
def fnvFrom (a : Word) (bs : List Byte) : Word :=
  bs.foldl fnvStep a

/-- `Fnv1a32(B)` (R70): total, for every buffer. -/
def fnv1a32 (bs : List Byte) : Word :=
  fnvFrom fnvOffsetBasis bs

/-! ### The shared procedure and the command -/

/-- `ACC <- FnvStep(ACC, b)` (R73). -/
def hashIn (b : Byte) (s : State) : State :=
  { s with acc := fnvStep s.acc b }

/-- The loop of HashBytes over the next `n` data bytes (R73). -/
def hashLoop : Nat → State → Outcome State Fault Refusal
  | 0, s => .next s
  | n + 1, s => withData s.idx s fun b => hashLoop n (nextByte (hashIn b s))

/-- `HashBytes(lo, hi)`: hash `DATA[lo .. hi)` into ACC, always from the offset basis (R73, 10_state.md R13). That the pass counts
in IDX, from `lo`, is DEDUCED from 10_state.md R14 (notes/assumptions 15). -/
def hashBytes (lo hi : Nat) (s : State) : Outcome State Fault Refusal :=
  hashLoop (hi - lo) { s with acc := fnvOffsetBasis, idx := lo }

/-- The work of FNVD after its issue (R72): `HV <- ACC`, `OLEN <- 0`. -/
def fnvdBody (s : State) : Outcome State Fault Refusal :=
  andThen (hashBytes 0 s.dlen s) fun t => .next (complete 0 { t with hv := some t.acc })

/-- `FNVD data` (R72). -/
def execFnvd (s : State) : Outcome State Fault Refusal :=
  command .fnvd fnvdBody s

end Sys2Proof.Machine
end

