-- ==== Sys2Proof/Machine/ChecksumFramer.lean ====
section
/-! DEFINITION. ChecksumFramer: the functions Frame and Unframe (43_checksum_framer.md R80, R84) and the commands FRAME (R81) and
UNFRM (R85). Both hash with HashBytes of FnvHasher (R73). -/

namespace Sys2Proof.Machine

open Host (Outcome)

/-! ### The functions -/

/-- `Frame(P) = P || LE32(Fnv1a32(P))` (R80). -/
def frame (p : List Byte) : List Byte :=
  p ++ le32 (fnv1a32 p)

/-- The payload part of a candidate frame: all but its last 4 bytes (R84). -/
def payloadOf (f : List Byte) : List Byte :=
  f.take (f.length - trailerLen)

/-- The storedHash of a candidate frame, rebuilt little-endian from its last 4 bytes (R84, R86). The default 0 is never met for
a buffer of 4 bytes or more, and the function is used for no other. -/
def storedHash (f : List Byte) : Word :=
  le32dec (f.getD (f.length - 4) 0#8) (f.getD (f.length - 3) 0#8) (f.getD (f.length - 2) 0#8) (f.getD (f.length - 1) 0#8)

/-- `Unframe(F)`: three cases, tried in this order (R84). -/
def unframe (f : List Byte) : Result :=
  if f.length < trailerLen then .err .tooShort
  else if fnv1a32 (payloadOf f) ≠ storedHash f then .err .checksumMismatch
  else .ok (payloadOf f)

/-! ### The commands -/

/-- The copy of the next `n` bytes of DATA to OUT, index by index (R81, R85). -/
def copyLoop : Nat → State → Outcome State Fault Refusal
  | 0, s => .next s
  | n + 1, s => withData s.idx s fun b => copyLoop n (nextByte (writeOut s.idx b s))

/-- A pass that copies `DATA[0 .. n)` to OUT (R81, R85). That the pass starts with `IDX <- 0` is DEDUCED from
10_state.md R14 (notes/assumptions 15). -/
def copyBytes (n : Nat) (s : State) : Outcome State Fault Refusal :=
  copyLoop n { s with idx := 0 }

/-- `OUT[DLEN + t] <- ACC[8t+7 : 8t]` for `t` in 0 .. 3 (R81). -/
def writeTrailer (s : State) : State :=
  writeOut (s.dlen + 3) (hashByte s.acc 3)
    (writeOut (s.dlen + 2) (hashByte s.acc 2)
      (writeOut (s.dlen + 1) (hashByte s.acc 1)
        (writeOut (s.dlen + 0) (hashByte s.acc 0) s)))

/-- The work of FRAME after its issue (R81). -/
def frameBody (s : State) : Outcome State Fault Refusal :=
  andThen (hashBytes 0 s.dlen s) fun t =>
    andThen (copyBytes t.dlen t) fun u => .next (complete (u.dlen + trailerLen) (writeTrailer u))

/-- `FRAME payload` (R81). -/
def execFrame (s : State) : Outcome State Fault Refusal :=
  command .frame frameBody s

/-- `SH <- LE32dec(DATA[DLEN-4], DATA[DLEN-3], DATA[DLEN-2], DATA[DLEN-1])` (R85, R86). -/
def loadStoredHash (s : State) : Outcome State Fault Refusal :=
  withData (s.dlen - 4) s fun t0 =>
    withData (s.dlen - 3) s fun t1 =>
      withData (s.dlen - 2) s fun t2 =>
        withData (s.dlen - 1) s fun t3 => .next { s with sh := le32dec t0 t1 t2 t3 }

/-- The end of UNFRM: the comparison over all 32 bits, then the copy of the payload (R85, R86, R88). -/
def unfrmVerdict (s : State) : Outcome State Fault Refusal :=
  if s.acc ≠ s.sh then .next (raise .checksumMismatch s)
  else andThen (copyBytes (s.dlen - trailerLen) s) fun t => .next (complete (t.dlen - trailerLen) t)

/-- The work of UNFRM after its issue (R85): the length is checked before any byte is read (R87). -/
def unfrmBody (s : State) : Outcome State Fault Refusal :=
  if s.dlen < trailerLen then .next (raise .tooShort s)
  else
    andThen (hashBytes 0 (s.dlen - trailerLen) s) fun t =>
      andThen (loadStoredHash t) unfrmVerdict

/-- `UNFRM framed` (R85). -/
def execUnfrm (s : State) : Outcome State Fault Refusal :=
  command .unfrm unfrmBody s

end Sys2Proof.Machine
end

