-- ==== Sys2Proof/Machine/XorCipher.lean ====
section
/-! DEFINITION. KeyedXorCipher: the function XorTransform (41_xor_cipher.md R60) and the command XORT (R61). -/

namespace Sys2Proof.Machine

open Host (Outcome)

/-! ### The function -/

/-- The bytes `D[i] XOR K[(p + i) mod len(K)]` of a buffer `D` whose first byte stands at position `p`. The default 0 is never
met: the index is below `len(K)` for a non-empty `K`, and the function is used for no other. -/
def xorFrom (k : List Byte) : Nat → List Byte → List Byte
  | _, [] => []
  | p, b :: bs => (b ^^^ k.getD (p % k.length) 0#8) :: xorFrom k (p + 1) bs

/-- The output of `XorTransform` for a non-empty key: the position is counted from 0 at the start of this buffer (R60). -/
def xorBytes (d k : List Byte) : List Byte :=
  xorFrom k 0 d

/-- `XorTransform(D, K)` (R60): an empty key gives `InvalidKey`, whatever `D` is. -/
def xorTransform (d k : List Byte) : Result :=
  if k = [] then .err .invalidKey else .ok (xorBytes d k)

/-- `rot(K, n)`: the key rotated left by `n mod len(K)` places (R66). -/
def rotateKey (k : List Byte) (n : Nat) : List Byte :=
  k.drop (n % k.length) ++ k.take (n % k.length)

/-! ### The command -/

/-- `KIDX <- (KIDX + 1 = KLEN) ? 0 : KIDX + 1` (R15). -/
def nextKeyIndex (klen kidx : Nat) : Nat :=
  if kidx + 1 = klen then 0 else kidx + 1

/-- The key counter moves on after a byte (R15, R61). -/
def stepKeyIndex (s : State) : State :=
  { s with kidx := nextKeyIndex s.klen s.kidx }

/-- The loop of XORT over the next `n` data bytes (R61). -/
def xorLoop : Nat → State → Outcome State Fault Refusal
  | 0, s => .next s
  | n + 1, s =>
    withData s.idx s fun d =>
      withKey s.kidx s fun k =>
        xorLoop n (nextByte (stepKeyIndex (writeOut s.idx (d ^^^ k) s)))

/-- The work of XORT after its issue (R61): the key is checked before any byte is read. -/
def xortBody (s : State) : Outcome State Fault Refusal :=
  if s.klen = 0 then .next (raise .invalidKey s)
  else andThen (xorLoop s.dlen { s with idx := 0, kidx := 0 }) fun t => .next (complete t.dlen t)

/-- `XORT data, key` (R61). -/
def execXort (s : State) : Outcome State Fault Refusal :=
  command .xort xortBody s

end Sys2Proof.Machine
end

