-- ==== Sys2Proof/Machine/Dispatch.lean ====
section
/-! DEFINITION. exec: one arm per command, each one call of that command's meaning (30_encoding.md R45). -/

namespace Sys2Proof.Machine

def exec (i : Instr) (s : State) : Host.Outcome State Fault Refusal :=
  match i with
  | .xort => Sys2Proof.Machine.execXort s
  | .fnvd => Sys2Proof.Machine.execFnvd s
  | .frame => Sys2Proof.Machine.execFrame s
  | .unfrm => Sys2Proof.Machine.execUnfrm s

end Sys2Proof.Machine
end

