-- ==== Sys2Proof/Machine/HostPort.lean ====
section
/-! DEFINITION. The host's side of one instance: what each move of the host does (20_memory.md R30, R40, R41; 10_state.md R26;
44_composed_paths.md R101; 70_reset_and_hazards.md R125, R129, R136). -/

namespace Sys2Proof.Machine

open Host (Outcome)

/-- Issue the command of an opcode byte: it runs to completion as one step (R40); a reserved opcode is refused (R52). -/
def issue (op : Byte) (s : State) : Outcome State Fault Refusal :=
  match decodeByte op with
  | some i => exec i s
  | none => .refused (.reservedOpcode op)

/-- Issue a command and apply reset before it completes (R125, U8): it delivers no response and its outcome is that of a reset.
What could not be issued is refused as `issue` refuses it (R52, R53). -/
def abandonCommand (op : Byte) (s : State) : Outcome State Fault Refusal :=
  match decodeByte op with
  | some i => if admitted i s then .next (resetBlock s) else .refused .overCapacity
  | none => .refused (.reservedOpcode op)

/-- Hand OUT on as DATA, as a copy (R136; DEDUCED, notes/assumptions 18). Reading an OUT that has no value is the host's fault (R26). -/
def handOver (s : State) : Outcome State Fault Refusal :=
  match s.olen with
  | none => .fault (.noValue .out)
  | some _ => .next { s with data := s.out }

/-- The second command of a path (R101): issued with the first one's OUT as DATA only when ST = OK. -/
def chainCommand (op : Byte) (s : State) : Outcome State Fault Refusal :=
  match s.st with
  | none => .fault (.noValue .st)
  | some c => if c = statusOk then andThen (handOver s) (issue op) else .next s

/-- The host has read a value. -/
def deliver (v : Seen) (s : State) : State :=
  { s with seen := s.seen ++ [v] }

/-- A host's read of a response register: its value, or the host's fault when it has none (R26). -/
def readRegister {α : Type} (r : RespReg) (value : Option α) (wrap : α → Seen) (s : State) : Outcome State Fault Refusal :=
  match value with
  | some v => .next (deliver (wrap v) s)
  | none => .fault (.noValue r)

/-- A host's read of `OUT[i]` (R21, R26): OUT must have a value, and beyond OLEN it does not exist. -/
def readOutByte (i : Nat) (s : State) : Outcome State Fault Refusal :=
  match s.olen with
  | none => .fault (.noValue .out)
  | some n =>
    if i < n then
      match Memory.read s.out i with
      | some b => .next (deliver (.out i b) s)
      | none => .fault (.noSuchByte .out i)
    else .fault (.noSuchByte .out i)

/-- One move of the host. -/
def hostMove (m : HostMove) (s : State) : Outcome State Fault Refusal :=
  match m with
  | .putData bs => .next { s with data := Memory.ofBytes bs }
  | .putKey bs => .next { s with key := Memory.ofBytes bs }
  | .passOut => handOver s
  | .issue op => issue op s
  | .chain op => chainCommand op s
  | .abandon op => abandonCommand op s
  | .reset => .next (resetBlock s)
  | .readSt => readRegister .st s.st .st s
  | .readOkf => readRegister .okf s.okf .okf s
  | .readOlen => readRegister .olen s.olen .olen s
  | .readHv => readRegister .hv s.hv .hv s
  | .readOut i => readOutByte i s

/-- The next move of the host, taken off its list. With none pending the block stays idle (60_exceptions.md R120): DEDUCED
(notes/assumptions 11). -/
def nextMove (s : State) : Outcome State Fault Refusal :=
  match s.host with
  | [] => .next s
  | m :: rest => hostMove m { s with host := rest }

/-- The state whose very next move issues the command of `nbits` bits given as the number `w`: its opcode byte is the first
byte of it (R46); a number of no bits holds no command. -/
def placeCommand (s : State) (nbits w : Nat) : State :=
  match bytesOfNumber ((nbits + 7) / 8) w with
  | [] => s
  | op :: _ => { s with host := .issue op :: s.host }

end Sys2Proof.Machine
end

