-- ==== Sys2Proof/Machine/Step.lean ====
section
/-! DEFINITION. One step of the machine: the host's next move, a command being one atomic step (20_memory.md R40). The block
fetches no instructions (10_state.md R17): a command comes from the host. -/

namespace Sys2Proof.Machine

open Host (Outcome)

/-- One step. -/
def step (s : State) : Host.Outcome State Fault Refusal :=
  nextMove s

/-- The state whose very next step issues and runs the command whose bits are `w` (notes/assumptions 4). -/
def State.withFetchWord (s : State) (nbits w : Nat) : State :=
  placeCommand s nbits w

end Sys2Proof.Machine
end

