-- ==== Sys2Proof/Machine/Instances.lean ====
section
/-! DEFINITION. Several instances of the block (10_state.md R27, 60_exceptions.md R117): each has its own registers and buffers
and they share nothing. -/

namespace Sys2Proof.Machine

open Host (Outcome)

/-- Any number of instances. What a reset leaves in two of them is related where the spec relates nothing: notes/assumptions 19
(DESIGN CHOICE, unsafe). -/
abbrev System := List State

/-- One step of the `j`-th instance; the others do not move. DESIGN CHOICE (notes/assumptions 17): where there is no `j`-th
instance nothing happens, and a stop of one instance is reported for the system. -/
def System.step (j : Nat) (sys : System) : Outcome System Fault Refusal :=
  match sys[j]? with
  | none => .next sys
  | some s =>
    match Sys2Proof.Machine.step s with
    | .next t => .next (sys.set j t)
    | .fault r => .fault r
    | .refused r => .refused r

end Sys2Proof.Machine
end

