-- ==== Sys2Proof/Machine/Paths.lean ====
section
/-! DEFINITION. The two paths (44_composed_paths.md): the functions Encrypt (R95) and Decrypt (R97), and the pseudo-instructions
ENCRYPT and DECRYPT as the moves the host makes for them (30_encoding.md R56). -/

namespace Sys2Proof.Machine

/-- `Encrypt(P, K) = XorTransform(Frame(P), K)` (R95). -/
def encrypt (p k : List Byte) : Result :=
  xorTransform (frame p) k

/-- `Decrypt(C, K)`: XOR, then unframe only if the XOR gave `Ok` (R97). -/
def decrypt (c k : List Byte) : Result :=
  match xorTransform c k with
  | .ok x => unframe x
  | .err e => .err e

/-- `ENCRYPT plaintext, key`: place the operands, issue FRAME, and on OK issue XORT with FRAME's OUT as its DATA (R56, R95). -/
def encryptMoves (p k : List Byte) : List HostMove :=
  [.putKey k, .putData p, .issue (opcode .frame), .chain (opcode .xort)]

/-- `DECRYPT ciphertext, key`: place the operands, issue XORT, and on OK issue UNFRM with XORT's OUT as its DATA (R56, R97). -/
def decryptMoves (c k : List Byte) : List HostMove :=
  [.putKey k, .putData c, .issue (opcode .xort), .chain (opcode .unfrm)]

end Sys2Proof.Machine
end

