-- ==== Sys2Proof/Safety.lean ====
section
/-! DEFINITION. The terms claims are stated in: the response of a command (30_encoding.md R46), what it should be as a function
of the operands (10_state.md R10), and the invariant of the state (R12, R14, R19, R21, R26, 20_memory.md R30). -/

namespace Sys2Proof.Machine

/-- The response fields (R46). -/
structure Response where
  st : Option (BitVec 2)
  okf : Option (BitVec 1)
  olen : Option Nat
  out : List Byte
  hv : Option Word
  deriving DecidableEq, Repr

/-- The response a state holds. -/
def State.response (s : State) : Response :=
  ⟨s.st, s.okf, s.olen, Memory.bytes s.out, s.hv⟩

/-- No response register and no OUT has a value (R26). -/
def Response.noValue : Response :=
  ⟨none, none, none, [], none⟩

/-- The response that delivers a byte result or an error (R21, 60_exceptions.md R112). -/
def Response.ofResult : Result → Response
  | .ok bs => ⟨some 0#2, some 1#1, some bs.length, bs, none⟩
  | .err e => ⟨some e.code, some 0#1, some 0, [], none⟩

/-- The response that delivers a digest (R22, 42_fnv_hasher.md R72). -/
def Response.ofDigest (h : Word) : Response :=
  ⟨some 0#2, some 1#1, some 0, [], some h⟩

/-- The response of a command as a function of its opcode and operand bytes alone (R10). -/
def responseOf (i : Instr) (d k : List Byte) : Response :=
  match i with
  | .xort => .ofResult (xorTransform d k)
  | .fnvd => .ofDigest (fnv1a32 d)
  | .frame => .ofResult (.ok (frame d))
  | .unfrm => .ofResult (unframe d)

/-- The response registers together either have no value, or hold a response: OKF is 1 exactly when ST = OK (R19), OUT is
OLEN bytes long (R21), an error has no output and no HV (R112), and HV has a value only beside an empty OUT (R21, R22). -/
def responseConsistent (s : State) : Prop :=
  (s.st = none ∧ s.okf = none ∧ s.olen = none ∧ s.hv = none ∧ s.out = []) ∨
  ∃ c n, s.st = some c ∧ s.okf = some (if c = 0#2 then 1#1 else 0#1) ∧ s.olen = some n ∧ Memory.len s.out = n ∧
    (c ≠ 0#2 → n = 0 ∧ s.hv = none) ∧ (s.hv ≠ none → n = 0)

/-- What every step keeps: each space holds a ByteBuffer (R30), the response registers agree with each other, and every length
and index register fits `LENW` bits (R12, R14). -/
structure State.Inv (s : State) : Prop where
  dataDense : Memory.dense s.data = true
  keyDense : Memory.dense s.key = true
  outDense : Memory.dense s.out = true
  response : responseConsistent s
  dlenFits : fits s.cfg s.dlen = true
  klenFits : fits s.cfg s.klen = true
  idxFits : fits s.cfg s.idx = true
  kidxFits : fits s.cfg s.kidx = true
  olenFits : ∀ n, s.olen = some n → fits s.cfg n = true

/-- `n` steps of one instance, stopping at the first fault or refusal. -/
def runSteps : Nat → State → Host.Outcome State Fault Refusal
  | 0, s => .next s
  | n + 1, s => andThen (step s) (runSteps n)

end Sys2Proof.Machine
end

