-- ==== Sys2Proof/Certificates/Slice0/Obligations.lean ====
section
/-! DEFINITION. The statements for the provers, each read from the numbered rules of spec/. A statement about the state after a
command is about every state and every value of `LENW`; its hypotheses are on the state and the operands alone. -/

open Sys2Proof Sys2Proof.Machine

/-! ### Encoding -/

/-- R51: the opcode map, word by word, through the decoder and through the numbering of spec/opcode_table.json. -/
def Obligations.OpcodeWordsDecode : Prop :=
  decode [0x01#8] = .command .xort [] ∧ decode [0x02#8] = .command .fnvd [] ∧
  decode [0x03#8] = .command .frame [] ∧ decode [0x04#8] = .command .unfrm [] ∧
  decodeTableWord 8 1 = some .xort ∧ decodeTableWord 8 2 = some .fnvd ∧
  decodeTableWord 8 3 = some .frame ∧ decodeTableWord 8 4 = some .unfrm

/-- R46, R51, R57: the decoder and the encoder agree on every sequence of bytes: it decodes to a command with a rest exactly
when it is that command's one byte followed by the rest; and what does not decode is a reserved byte or no byte at all. -/
def Obligations.DecodeAndEncodeAgree : Prop :=
  (∀ (bs : List Byte) (i : Instr) (rest : List Byte), decode bs = .command i rest ↔ bs = encode i ++ rest) ∧
  (∀ (bs : List Byte) (b : Byte), decode bs = .reserved b ↔ ∃ rest, bs = b :: rest ∧ opcodeReserved b = true) ∧
  (∀ bs : List Byte, decode bs = .nothing ↔ bs = []) ∧
  (∀ i : Instr, (encode i).length = 1)

/-- R52: issuing 0x00 or any of 0x05 to 0xFF is refused, in every state: no step and no response, not a no-operation, not one
of the four commands and not an error kind; and no other opcode is refused as reserved. -/
def Obligations.ReservedOpcodesAreRefused : Prop :=
  ∀ (s : State) (op : Byte) (rest : List HostMove), s.host = .issue op :: rest →
    (op = 0x00#8 ∨ (0x05 ≤ op.toNat ∧ op.toNat ≤ 0xFF) → step s = .refused (.reservedOpcode op)) ∧
    (op = 0x01#8 ∨ op = 0x02#8 ∨ op = 0x03#8 ∨ op = 0x04#8 → ∀ b, step s ≠ .refused (.reservedOpcode b))

/-- A command issued by the host runs to completion before the next (R17, R40, R46). The rest is the model's own apparatus, not
the spec's: that the host's moves stand in State as a list and a step takes the first move off it, and `withFetchWord`, are
notes/assumptions 4 (DESIGN CHOICE); that `chain` hands OUT over as a copy is notes/assumptions 18 (DEDUCED, from R101 and R136).
In those terms: a step whose next host move issues an opcode byte is exec of the command the decoder reads from it, on the state
with that move taken off the host's list; so is a step whose next move is the second command of a path after ST = OK, on the
state with OUT handed over as DATA; and `withFetchWord` sets up exactly such a step. -/
def Obligations.StepRunsTheDecodedCommand : Prop :=
  (∀ (s : State) (op : Byte) (rest : List HostMove) (i : Instr),
    s.host = .issue op :: rest → decode [op] = .command i [] → step s = exec i { s with host := rest }) ∧
  (∀ (s : State) (op : Byte) (rest : List HostMove) (i : Instr) (n : Nat),
    s.host = .chain op :: rest → decode [op] = .command i [] → s.st = some 0#2 → s.olen = some n →
      step s = exec i { s with host := rest, data := s.out }) ∧
  (∀ (s : State) (i : Instr), step (s.withFetchWord 8 (opcode i).toNat) = exec i s)

/-- With no host move pending the block is idle (R120), and a step changes nothing: notes/assumptions 11 (DEDUCED), the list of
moves being notes/assumptions 4 (DESIGN CHOICE). -/
def Obligations.IdleStepChangesNothing : Prop :=
  ∀ s : State, s.host = [] → step s = .next s

/-! ### XORT -/

/-- R60: XorTransform. An empty key gives InvalidKey whatever the data; else the output has the data's length and its byte `i` is
`D[i] XOR K[i mod len(K)]`. -/
def Obligations.XorTransformFormula : Prop :=
  ∀ d k : List Byte,
    (k = [] → xorTransform d k = .err .invalidKey) ∧
    (k ≠ [] → ∃ o, xorTransform d k = .ok o ∧ o.length = d.length ∧
      ∀ (i : Nat) (b c : Byte), d[i]? = some b → k[i % k.length]? = some c → o[i]? = some (b ^^^ c))

/-- R61: XORT. Every admitted XORT completes; this is the whole state it leaves. With an empty key it raises InvalidKey before
IDX or KIDX is touched; else OUT is the transformed buffer. HV has no value and every other field is as it was. -/
def Obligations.XortRuns : Prop :=
  ∀ s : State, admitted .xort s = true →
    let d := Memory.bytes s.data
    let k := Memory.bytes s.key
    exec .xort s =
      if k = [] then
        .next { s with
          op := 0x01#8, dlen := d.length, klen := k.length
          st := some 1#2, okf := some 0#1, olen := some 0, hv := none, out := [] }
      else
        .next { s with
          op := 0x01#8, dlen := d.length, klen := k.length, idx := d.length, kidx := d.length % k.length
          st := some 0#2, okf := some 1#1, olen := some d.length, hv := none
          out := Memory.ofBytes
            ((List.range d.length).map fun i => d.getD i 0#8 ^^^ k.getD (i % k.length) 0#8) }

/-- R63: self-inverse. Two XORT with the same non-empty key give the data back. -/
def Obligations.XorIsSelfInverse : Prop :=
  ∀ d k : List Byte, k ≠ [] → ∃ o, xorTransform d k = .ok o ∧ xorTransform o k = .ok d

/-- R15, R61: after any number of bytes of XORT's loop the key counter is the index modulo the key's length. -/
def Obligations.KeyCounterIsIndexModLength : Prop :=
  ∀ (n : Nat) (s t : State), 0 < s.klen → s.idx = 0 → s.kidx = 0 → xorLoop n s = .next t →
    t.idx = n ∧ t.kidx = n % s.klen

/-- R66: splitting and joining, with the key rotated by the length of the first part; and a key that is a whole number of
repetitions of a shorter key gives the same result. -/
def Obligations.XorSplitsWithRotatedKey : Prop :=
  (∀ a b k : List Byte, k ≠ [] →
    xorTransform (a ++ b) k = .ok (xorBytes a k ++ xorBytes b (rotateKey k a.length))) ∧
  (∀ (d k : List Byte) (n : Nat), k ≠ [] → 0 < n → xorTransform d (List.replicate n k).flatten = xorTransform d k)

/-! ### FNVD -/

/-- R71: FnvStep. XOR with the zero-extended byte first, which can change only bits 7:0, then multiply by 16777619 modulo
2^32. -/
def Obligations.FnvStepFormula : Prop :=
  ∀ (a : Word) (b : Byte),
    (fnvStep a b).toNat = ((a ^^^ b.zeroExtend 32).toNat * 16777619) % 2 ^ 32 ∧
    (a ^^^ b.zeroExtend 32) >>> 8 = a >>> 8

/-- R70: Fnv1a32. It is the last value of every sequence that starts at the offset basis and steps with FnvStep over the bytes
in order. -/
def Obligations.FnvDigestRecurrence : Prop :=
  ∀ (bs : List Byte) (a : Nat → Word), a 0 = 2166136261#32 →
    (∀ (i : Nat) (b : Byte), bs[i]? = some b → a (i + 1) = fnvStep (a i) b) → fnv1a32 bs = a bs.length

/-- R72: FNVD. Every admitted FNVD completes; this is the whole state it leaves, but for IDX (see `IndexEndsAtThePassLength`):
HV and ACC are the digest, OUT is empty, and KLEN, KIDX, SH, the operands and every other field are as they were. -/
def Obligations.FnvdRuns : Prop :=
  ∀ s : State, admitted .fnvd s = true → ∃ x : Nat,
    exec .fnvd s = .next { s with
      op := 0x02#8, dlen := Memory.len s.data, idx := x, acc := fnv1a32 (Memory.bytes s.data)
      st := some 0#2, okf := some 1#1, olen := some 0, hv := some (fnv1a32 (Memory.bytes s.data)), out := [] }

/-- R74: the byte enters the accumulator zero-extended. What FnvStep multiplies by the prime (an odd number, so no other word has
that product) has bits 31:8 of the accumulator, unchanged, and its bits 7:0 XORed with the byte's; so has what ACC is the
product of after an FNVD, for its last byte and the digest of the bytes before it; and the spec's example of a byte of 0x80,
0x811c9d45 and not 0x7ee36245. -/
def Obligations.HashByteIsZeroExtended : Prop :=
  (∀ (a : Word) (b : Byte), ∃ x : Word, fnvStep a b = 16777619#32 * x ∧
    ∀ j : Nat, (8 ≤ j → x.getLsbD j = a.getLsbD j) ∧ (j < 8 → x.getLsbD j = (a.getLsbD j != b.getLsbD j))) ∧
  (∀ (s : State) (p : List Byte) (b : Byte), admitted .fnvd s = true → Memory.bytes s.data = p ++ [b] →
    ∃ (t : State) (x : Word), exec .fnvd s = .next t ∧ t.acc = 16777619#32 * x ∧
      ∀ j : Nat, (8 ≤ j → x.getLsbD j = (fnv1a32 p).getLsbD j) ∧
        (j < 8 → x.getLsbD j = ((fnv1a32 p).getLsbD j != b.getLsbD j))) ∧
  fnvStep 0x811c9dc5#32 0x80#8 = 16777619#32 * 0x811c9d45#32 ∧
  fnvStep 0x811c9dc5#32 0x80#8 ≠ 16777619#32 * 0x7ee36245#32

/-- R75: the step's multiplication as shifts and adds modulo 2^32. -/
def Obligations.FnvMultiplyIsShiftAdd : Prop :=
  ∀ (a : Word) (b : Byte),
    let x := a ^^^ zext32 b
    fnvStep a b = x + (x <<< 1) + (x <<< 4) + (x <<< 7) + (x <<< 8) + (x <<< 24)

/-- R77 (e): for a fixed byte the step is a bijection on accumulators, and for a fixed accumulator it tells bytes apart. -/
def Obligations.FnvStepIsBijective : Prop :=
  (∀ b : Byte, Function.Bijective fun a : Word => fnvStep a b) ∧ ∀ a : Word, Function.Injective (fnvStep a)

/-- R77 (e): two buffers of the same length that differ in exactly one byte never have the same digest. -/
def Obligations.OneByteChangesTheDigest : Prop :=
  ∀ (p q : List Byte) (b c : Byte), b ≠ c → fnv1a32 (p ++ b :: q) ≠ fnv1a32 (p ++ c :: q)

/-- R78: the source's two known vectors and three corner cases, as FNVD run on a small state. -/
def Obligations.FnvdKnownVectors : Prop :=
  ∀ (bs : List Byte) (h : Word),
    (bs, h) ∈ ([([], 0x811c9dc5#32), ([0x68#8, 0x65#8, 0x6c#8, 0x6c#8, 0x6f#8], 0x4f9f2cab#32), ([0x80#8], 0x850b939f#32),
      ([0xff#8], 0x7a0b824e#32), ([0x00#8, 0x00#8], 0x117697cd#32)] : List (List Byte × Word)) →
    ∃ t, exec .fnvd { State.reset with data := Memory.ofBytes bs } = .next t ∧ t.hv = some h

/-! ### FRAME, UNFRM and the trailer -/

/-- R48: LE32. The four bytes of a HashValue, as numbers, least significant first; the spec's example. -/
def Obligations.TrailerEncoding : Prop :=
  (∀ h : Word, (le32 h).map BitVec.toNat =
    [h.toNat % 256, h.toNat / 2 ^ 8 % 256, h.toNat / 2 ^ 16 % 256, h.toNat / 2 ^ 24 % 256]) ∧
  le32 0x4f9f2cab#32 = [0xab#8, 0x2c#8, 0x9f#8, 0x4f#8]

/-- R49: LE32dec. Each byte counts as a positive number with its own weight, and the sum may equally be read as a bitwise OR or
XOR; the spec's example. -/
def Obligations.TrailerDecoding : Prop :=
  (∀ t0 t1 t2 t3 : Byte,
    (le32dec t0 t1 t2 t3).toNat = t0.toNat + t1.toNat * 2 ^ 8 + t2.toNat * 2 ^ 16 + t3.toNat * 2 ^ 24 ∧
    le32dec t0 t1 t2 t3 =
      (t0.zeroExtend 32 ||| t1.zeroExtend 32 <<< 8 ||| t2.zeroExtend 32 <<< 16 ||| t3.zeroExtend 32 <<< 24) ∧
    le32dec t0 t1 t2 t3 =
      (t0.zeroExtend 32 ^^^ t1.zeroExtend 32 <<< 8 ^^^ t2.zeroExtend 32 <<< 16 ^^^ t3.zeroExtend 32 <<< 24)) ∧
  le32dec 0xab#8 0x2c#8 0x9f#8 0x4f#8 = 0x4f9f2cab#32

/-- R49, R89: the trailer's bytes and its number determine each other. -/
def Obligations.TrailerRoundTrip : Prop :=
  (∀ (h : Word) (t0 t1 t2 t3 : Byte), le32 h = [t0, t1, t2, t3] ↔ le32dec t0 t1 t2 t3 = h)

/-- R80: Frame. `P`, unchanged and in order, then the four bytes of its digest, least significant first; `n + 4` bytes. -/
def Obligations.FrameFormula : Prop :=
  ∀ p : List Byte,
    let h := (fnv1a32 p).toNat
    (frame p).length = p.length + 4 ∧ (frame p).take p.length = p ∧
    ((frame p).drop p.length).map BitVec.toNat = [h % 256, h / 2 ^ 8 % 256, h / 2 ^ 16 % 256, h / 2 ^ 24 % 256]

/-- R81: FRAME. Every admitted FRAME completes; this is the whole state it leaves, but for IDX (see `IndexEndsAtThePassLength`):
OUT is the payload and its trailer, HV has no value, and KLEN, KIDX, SH, the operands and every other field are as they were. -/
def Obligations.FrameRuns : Prop :=
  ∀ s : State, admitted .frame s = true →
    let p := Memory.bytes s.data
    let h := fnv1a32 p
    ∃ x : Nat, exec .frame s = .next { s with
      op := 0x03#8, dlen := p.length, idx := x, acc := h
      st := some 0#2, okf := some 1#1, olen := some (p.length + 4), hv := none
      out := Memory.ofBytes
        (p ++ [h.extractLsb' 0 8, h.extractLsb' 8 8, h.extractLsb' 16 8, h.extractLsb' 24 8]) }

/-- R84: Unframe, its three cases in the order they are tried. -/
def Obligations.UnframeFormula : Prop :=
  ∀ f : List Byte,
    (f.length < 4 → unframe f = .err .tooShort) ∧
    (∀ (p : List Byte) (t0 t1 t2 t3 : Byte), f = p ++ [t0, t1, t2, t3] →
      (fnv1a32 p ≠ le32dec t0 t1 t2 t3 → unframe f = .err .checksumMismatch) ∧
      (fnv1a32 p = le32dec t0 t1 t2 t3 → unframe f = .ok p)) ∧
    (4 ≤ f.length → ∃ (p : List Byte) (t0 t1 t2 t3 : Byte), f = p ++ [t0, t1, t2, t3])

/-- R85: UNFRM. Every admitted UNFRM completes; this is the whole state it leaves in each of its three outcomes, but for IDX
(see `IndexEndsAtThePassLength`). Too short: no working register of the hash is touched. Else ACC is the digest of the payload
part and SH the trailer's number; on a mismatch OUT is empty; on a match OUT is the payload. -/
def Obligations.UnfrmRuns : Prop :=
  ∀ s : State, admitted .unfrm s = true →
    let f := Memory.bytes s.data
    let m := f.length
    let h := fnv1a32 (f.take (m - 4))
    let stored := le32dec (f.getD (m - 4) 0#8) (f.getD (m - 3) 0#8) (f.getD (m - 2) 0#8) (f.getD (m - 1) 0#8)
    ∃ x : Nat, exec .unfrm s =
      if m < 4 then
        .next { s with
          op := 0x04#8, dlen := m
          st := some 2#2, okf := some 0#1, olen := some 0, hv := none, out := [] }
      else if h ≠ stored then
        .next { s with
          op := 0x04#8, dlen := m, idx := x, acc := h, sh := stored
          st := some 3#2, okf := some 0#1, olen := some 0, hv := none, out := [] }
      else
        .next { s with
          op := 0x04#8, dlen := m, idx := x, acc := h, sh := stored
          st := some 0#2, okf := some 1#1, olen := some (m - 4), hv := none
          out := Memory.ofBytes (f.take (m - 4)) }

/-- R14, with notes/assumptions 15 (DEDUCED: the pseudocode of these commands does not write IDX): after a completed pass IDX is
the number of bytes passed. -/
def Obligations.IndexEndsAtThePassLength : Prop :=
  (∀ (i : Instr) (s : State), i = .fnvd ∨ i = .frame → admitted i s = true →
    ∃ t, exec i s = .next t ∧ t.idx = Memory.len s.data) ∧
  (∀ s : State, admitted .unfrm s = true → 4 ≤ Memory.len s.data →
    ∃ t, exec .unfrm s = .next t ∧ t.idx = Memory.len s.data - 4)

/-- R89: round trip, as commands: FRAME, then UNFRM of its OUT, verifies and gives the payload back; and conversely what UNFRM
accepts is exactly what FRAME produces. -/
def Obligations.FrameThenUnframe : Prop :=
  (∀ s : State, admitted .frame s = true → ∃ t u, exec .frame s = .next t ∧
    exec .unfrm { t with data := t.out } = .next u ∧ u.okf = some 1#1 ∧ Memory.bytes u.out = Memory.bytes s.data) ∧
  ∀ f p : List Byte, unframe f = .ok p ↔ f = frame p

/-- R90 (a), (b), (d): UNFRM of a frame in which any one byte was changed, in the payload or in the trailer, raises
ChecksumMismatch and delivers nothing; so does a frame whose trailer alone was changed in any way; a frame cut below 4 bytes
raises TooShort. -/
def Obligations.TamperingIsDetected : Prop :=
  (∀ (s : State) (p : List Byte) (j : Nat) (b : Byte), admitted .unfrm s = true → j < p.length + 4 →
    (frame p)[j]? ≠ some b → Memory.bytes s.data = (frame p).set j b →
    ∃ t, exec .unfrm s = .next t ∧ t.st = some 3#2 ∧ t.okf = some 0#1 ∧ t.olen = some 0 ∧ t.out = []) ∧
  (∀ (s : State) (p tr : List Byte), admitted .unfrm s = true → tr.length = 4 → tr ≠ le32 (fnv1a32 p) →
    Memory.bytes s.data = p ++ tr →
    ∃ t, exec .unfrm s = .next t ∧ t.st = some 3#2 ∧ t.okf = some 0#1 ∧ t.olen = some 0 ∧ t.out = []) ∧
  (∀ (s : State) (p : List Byte) (n : Nat), admitted .unfrm s = true → n < 4 → Memory.bytes s.data = (frame p).take n →
    ∃ t, exec .unfrm s = .next t ∧ t.st = some 2#2 ∧ t.okf = some 0#1 ∧ t.olen = some 0 ∧ t.out = [])

/-! ### Every command -/

/-- R10: the response of a command is a function of its opcode and operand bytes alone: two states that agree on the operands
of the command and on nothing else, both admitting it, give the same response. -/
def Obligations.ResponseDependsOnOperandsAlone : Prop :=
  ∀ (i : Instr) (s s' : State), admitted i s = true → admitted i s' = true →
    Memory.bytes s.data = Memory.bytes s'.data → (i = .xort → Memory.bytes s.key = Memory.bytes s'.key) →
    ∃ t t', exec i s = .next t ∧ exec i s' = .next t' ∧ t.response = t'.response

/-- R8, R10, R61, R72, R81, R85: the registers and buffers compute the four pure functions of the spec: the response of every
admitted command is the one its function gives. -/
def Obligations.CommandsRefineTheFunctions : Prop :=
  ∀ (i : Instr) (s : State), admitted i s = true →
    ∃ t, exec i s = .next t ∧ t.response = responseOf i (Memory.bytes s.data) (Memory.bytes s.key)

/-- R33, R138: no access of a command is out of bounds and no command hangs: a command completes exactly when it is admitted,
and otherwise it is refused as over capacity; it never faults. -/
def Obligations.CommandsNeverFault : Prop :=
  ∀ (i : Instr) (s : State),
    ((∃ t, exec i s = .next t) ↔ admitted i s = true) ∧ (∀ r, exec i s ≠ .fault r) ∧
    (∀ r, exec i s = .refused r → r = .overCapacity)

/-- R53: admission by capacity, with `MAXLEN = 2^w - 1` for a finite `LENW = w`; with `LENW` unbounded every command is
admitted. A command that is not admitted is refused, never answered with an error code. -/
def Obligations.CapacityDecidesAdmission : Prop :=
  ∀ (i : Instr) (s : State),
    (∀ w, s.cfg.lenw = some w →
      ((Memory.len s.data ≤ 2 ^ w - 1 ∧ (i = .xort → Memory.len s.key ≤ 2 ^ w - 1) ∧
          (i = .frame → Memory.len s.data + 4 ≤ 2 ^ w - 1)) → ∃ t, exec i s = .next t) ∧
      (¬(Memory.len s.data ≤ 2 ^ w - 1 ∧ (i = .xort → Memory.len s.key ≤ 2 ^ w - 1) ∧
          (i = .frame → Memory.len s.data + 4 ≤ 2 ^ w - 1)) → exec i s = .refused .overCapacity)) ∧
    (s.cfg.lenw = none → ∃ t, exec i s = .next t)

/-- R105: the three errors and their exact causes; FNVD and FRAME raise nothing; every other completion has ST = OK. -/
def Obligations.ErrorsAndTheirCauses : Prop :=
  ∀ (i : Instr) (s t : State), exec i s = .next t →
    let f := Memory.bytes s.data
    let m := f.length
    let stored := le32dec (f.getD (m - 4) 0#8) (f.getD (m - 3) 0#8) (f.getD (m - 2) 0#8) (f.getD (m - 1) 0#8)
    (t.st = some 1#2 ↔ i = .xort ∧ Memory.len s.key = 0) ∧
    (t.st = some 2#2 ↔ i = .unfrm ∧ m < 4) ∧
    (t.st = some 3#2 ↔ i = .unfrm ∧ 4 ≤ m ∧ fnv1a32 (f.take (m - 4)) ≠ stored) ∧
    (t.st ≠ some 0#2 → t.st = some 1#2 ∨ t.st = some 2#2 ∨ t.st = some 3#2)

/-- R107: UNFRM of 0, 1, 2 or 3 bytes raises TooShort, whatever the bytes, and of no other length. -/
def Obligations.ShortBuffersRaiseTooShort : Prop :=
  ∀ s : State, admitted .unfrm s = true → ∃ t, exec .unfrm s = .next t ∧ (t.st = some 2#2 ↔ Memory.len s.data < 4)

/-- R112: what `raise` does, and that it does nothing else. -/
def Obligations.RaiseEffect : Prop :=
  ∀ (e : ErrorKind) (s : State),
    raise e s = { s with
      st := some (match e with
        | .invalidKey => 1#2
        | .tooShort => 2#2
        | .checksumMismatch => 3#2)
      okf := some 0#1, olen := some 0, hv := none, out := [] }

/-- R13: ACC. FNVD, FRAME and an UNFRM of 4 bytes or more start the hash from the offset basis whatever ACC held and leave the
digest in it; XORT neither reads nor writes it. -/
def Obligations.AccumulatorStartsFresh : Prop :=
  (∀ (i : Instr) (s : State), i = .fnvd ∨ i = .frame → admitted i s = true →
    ∃ t, t.acc = fnv1a32 (Memory.bytes s.data) ∧ ∀ a, exec i { s with acc := a } = .next t) ∧
  (∀ s : State, admitted .unfrm s = true → 4 ≤ Memory.len s.data →
    ∃ t, t.acc = fnv1a32 ((Memory.bytes s.data).take (Memory.len s.data - 4)) ∧
      ∀ a, exec .unfrm { s with acc := a } = .next t) ∧
  (∀ s : State, admitted .xort s = true → ∃ t : State, ∀ a, exec .xort { s with acc := a } = .next { t with acc := a })

/-- R18: the issue of a command latches OP, DLEN and, for XORT only, KLEN, and they do not change during the command; the other
commands neither write nor read KLEN. -/
def Obligations.IssueLatchesOpcodeAndLengths : Prop :=
  ∀ (i : Instr) (s t : State), exec i s = .next t →
    t.op = opcode i ∧ t.dlen = Memory.len s.data ∧ (i = .xort → t.klen = Memory.len s.key) ∧
    (i ≠ .xort → ∀ n, exec i { s with klen := n } = .next { t with klen := n })

/-- R47: FNVD, FRAME and UNFRM do not sample KEY or KLEN: whatever the host presents there has no effect on the response. -/
def Obligations.UnusedKeyHasNoEffect : Prop :=
  ∀ (i : Instr) (s t : State), i ≠ .xort → exec i s = .next t →
    ∀ (m : Memory) (n : Nat), exec i { s with key := m, klen := n } = .next { t with key := m, klen := n }

/-- R19: OKF is written by every command together with ST, 1 for OK and 0 for an error; FNVD and FRAME always write 1; no
command reads it. -/
def Obligations.OkFlagFollowsStatus : Prop :=
  ∀ (i : Instr) (s t : State), exec i s = .next t →
    (∃ c, t.st = some c ∧ t.okf = some (if c = 0#2 then 1#1 else 0#1)) ∧
    (i = .fnvd ∨ i = .frame → t.okf = some 1#1) ∧ ∀ v, exec i { s with okf := v } = .next t

/-- R21: OLEN and OUT after a completed command. -/
def Obligations.OutputLengths : Prop :=
  ∀ (i : Instr) (s t : State), exec i s = .next t →
    t.olen = some (Memory.len t.out) ∧
    (t.st = some 0#2 → t.olen = some (match i with
      | .xort => Memory.len s.data
      | .fnvd => 0
      | .frame => Memory.len s.data + 4
      | .unfrm => Memory.len s.data - 4)) ∧
    (t.st = some 0#2 → Memory.bytes t.out = (match i with
      | .xort => xorBytes (Memory.bytes s.data) (Memory.bytes s.key)
      | .fnvd => []
      | .frame => frame (Memory.bytes s.data)
      | .unfrm => (Memory.bytes s.data).take (Memory.len s.data - 4))) ∧
    (t.st ≠ some 0#2 → t.olen = some 0 ∧ t.out = [])

/-- R22: FNVD writes HV; XORT, FRAME and UNFRM leave it with no value. -/
def Obligations.HashValueOnlyAfterFnvd : Prop :=
  ∀ (i : Instr) (s t : State), exec i s = .next t →
    (i = .fnvd → t.hv = some t.acc ∧ t.hv = some (fnv1a32 (Memory.bytes s.data))) ∧ (i ≠ .fnvd → t.hv = none)

/-- R31, and R13 to R18: the frame of the four commands. Every byte of DATA and of KEY reads as before, and so do the instance's
parameters, the host's side and the free-value counter; OUT is never read, and holds exactly the bytes the command stores, and none after FNVD or
an error; KLEN and KIDX change only by XORT, SH only by UNFRM, ACC by neither XORT nor a too short UNFRM. -/
def Obligations.CommandFrame : Prop :=
  ∀ (i : Instr) (s t : State), exec i s = .next t →
    (∀ m, exec i { s with out := m } = .next t) ∧
    (∀ a, Memory.read t.data a = Memory.read s.data a) ∧ (∀ a, Memory.read t.key a = Memory.read s.key a) ∧
    (∀ a, Memory.read t.out a = (responseOf i (Memory.bytes s.data) (Memory.bytes s.key)).out[a]?) ∧
    t.cfg = s.cfg ∧ t.host = s.host ∧ t.seen = s.seen ∧ t.freeCtr = s.freeCtr ∧
    (i ≠ .xort → t.klen = s.klen ∧ t.kidx = s.kidx) ∧ (i ≠ .unfrm → t.sh = s.sh) ∧ (i = .xort → t.acc = s.acc) ∧
    (i = .xort → Memory.len s.key = 0 → t.idx = s.idx ∧ t.kidx = s.kidx) ∧
    (i = .unfrm → Memory.len s.data < 4 → t.idx = s.idx ∧ t.acc = s.acc ∧ t.sh = s.sh)

/-! ### The host's side -/

/-- Reads of the response, from R26. A register with no value faults, one with a value can be read; after a command completes ST,
OKF and OLEN have a value, HV has one only after FNVD, and every byte of OUT below OLEN can be read; at reset nothing has a
value, and nothing gets one until a command completes. The model's own: that a read of OUT at or above OLEN, where R26 says only
that it does not exist, is a fault is notes/assumptions 14 (DEDUCED); the host moves are notes/assumptions 4 (DESIGN CHOICE). -/
def Obligations.ReadsNeedAValue : Prop :=
  (∀ (s : State) (rest : List HostMove),
    (s.host = .readSt :: rest →
      (s.st = none → step s = .fault (.noValue .st)) ∧ (s.st ≠ none → ∃ t, step s = .next t)) ∧
    (s.host = .readOkf :: rest →
      (s.okf = none → step s = .fault (.noValue .okf)) ∧ (s.okf ≠ none → ∃ t, step s = .next t)) ∧
    (s.host = .readOlen :: rest →
      (s.olen = none → step s = .fault (.noValue .olen)) ∧ (s.olen ≠ none → ∃ t, step s = .next t)) ∧
    (s.host = .readHv :: rest →
      (s.hv = none → step s = .fault (.noValue .hv)) ∧ (s.hv ≠ none → ∃ t, step s = .next t)) ∧
    (∀ a, s.host = .readOut a :: rest → s.olen = none → step s = .fault (.noValue .out))) ∧
  (∀ (i : Instr) (s t : State), exec i s = .next t →
    t.st ≠ none ∧ t.okf ≠ none ∧ (i = .fnvd → t.hv ≠ none) ∧ (i ≠ .fnvd → t.hv = none) ∧
    ∃ n, t.olen = some n ∧ ∀ (a : Nat) (rest : List HostMove),
      (a < n → ∃ u, step { t with host := .readOut a :: rest } = .next u) ∧
      (n ≤ a → step { t with host := .readOut a :: rest } = .fault (.noSuchByte .out a))) ∧
  State.reset.response = Response.noValue ∧
  (∀ (s t : State), s.response = Response.noValue → (∀ op rest, s.host ≠ .issue op :: rest) → step s = .next t →
    t.response = Response.noValue)

/-- R19 to R22, with the model's own record of what the host reads (notes/assumptions 5, DESIGN CHOICE) and its host moves
(notes/assumptions 4, DESIGN CHOICE): a read that is not a fault delivers the value of the register, or the byte of OUT, and
changes nothing else. -/
def Obligations.HostReadsDeliverTheValue : Prop :=
  ∀ (s t : State) (rest : List HostMove), step s = .next t →
    (s.host = .readSt :: rest → ∃ v, s.st = some v ∧ t = { s with host := rest, seen := s.seen ++ [.st v] }) ∧
    (s.host = .readOkf :: rest → ∃ v, s.okf = some v ∧ t = { s with host := rest, seen := s.seen ++ [.okf v] }) ∧
    (s.host = .readOlen :: rest → ∃ v, s.olen = some v ∧ t = { s with host := rest, seen := s.seen ++ [.olen v] }) ∧
    (s.host = .readHv :: rest → ∃ v, s.hv = some v ∧ t = { s with host := rest, seen := s.seen ++ [.hv v] }) ∧
    (∀ a, s.host = .readOut a :: rest →
      ∃ b, Memory.read s.out a = some b ∧ t = { s with host := rest, seen := s.seen ++ [.out a b] })

/-- R30, R129: the host's placing of operands (as a host move: notes/assumptions 4, DESIGN CHOICE): the space then holds exactly
those bytes at the indices from 0, and nothing else of the state changes. -/
def Obligations.HostPlacesOperands : Prop :=
  ∀ (s : State) (bs : List Byte) (rest : List HostMove),
    (s.host = .putData bs :: rest → ∃ t, step s = .next t ∧ (∀ a, Memory.read t.data a = bs[a]?) ∧
      Memory.bytes t.data = bs ∧ t = { s with host := rest, data := t.data }) ∧
    (s.host = .putKey bs :: rest → ∃ t, step s = .next t ∧ (∀ a, Memory.read t.key a = bs[a]?) ∧
      Memory.bytes t.key = bs ∧ t = { s with host := rest, key := t.key })

/-- R101, R136: after an error the second command of a path is not issued: the step only takes the move off the list and the
error's response stays; with no response at all the host's read of ST is its fault; OUT is handed on as a copy
(notes/assumptions 18, DEDUCED; the host moves are notes/assumptions 4, DESIGN CHOICE; the faults notes/assumptions 14,
DEDUCED). -/
def Obligations.ErrorStopsThePath : Prop :=
  ∀ (s : State) (op : Byte) (rest : List HostMove),
    (s.host = .chain op :: rest →
      (∀ c, s.st = some c → c ≠ 0#2 → step s = .next { s with host := rest }) ∧
      (s.st = none → step s = .fault (.noValue .st))) ∧
    (s.host = .passOut :: rest →
      (∀ n, s.olen = some n → step s = .next { s with host := rest, data := s.out }) ∧
      (s.olen = none → step s = .fault (.noValue .out)))

/-- Reset, from R125. While idle, or with a command in progress, it leaves no response register and no OUT with a value and DATA
and KEY unchanged, and constrains no working register; whatever moves come after an abandoned command, they are all still to
come, and the command, issued again from there, completes with the response it would have had. An abandon of a command over
capacity or of a reserved opcode is refused as its issue would be (R52, R53). The model's own: the host moves are
notes/assumptions 4 (DESIGN CHOICE), the free values notes/assumptions 6 (DEDUCED), the one step that issues and abandons a
command, with its refusals, notes/assumptions 10 and 13 (DEDUCED). -/
def Obligations.ResetAbandonsTheCommand : Prop :=
  (∀ (s : State) (rest : List HostMove), s.host = .reset :: rest →
    ∃ t, step s = .next t ∧ t.response = Response.noValue ∧ t.data = s.data ∧ t.key = s.key ∧ t.cfg = s.cfg ∧
      t.host = rest) ∧
  ∀ (s : State) (op : Byte) (rest : List HostMove), s.host = .abandon op :: rest →
    (∀ i, decode [op] = .command i [] → admitted i s = true →
      ∃ t, step s = .next t ∧ t.response = Response.noValue ∧ t.data = s.data ∧ t.key = s.key ∧ t.cfg = s.cfg ∧
        t.host = rest ∧ t.seen = s.seen ∧
        ∀ more, ∃ u v, step { s with host := .issue op :: more } = .next u ∧
          step { t with host := .issue op :: more } = .next v ∧ v.response = u.response) ∧
    (∀ i, decode [op] = .command i [] → admitted i s = false → step s = .refused .overCapacity) ∧
    (op = 0x00#8 ∨ (0x05 ≤ op.toNat ∧ op.toNat ≤ 0xFF) → step s = .refused (.reservedOpcode op))

/-- R11, R12: the response changes only by a command or a reset: a step whose host move is none of `issue`, `chain`, `abandon`
and `reset` leaves every response register, OUT and every working register as they were; and no step changes the instance's
parameters (notes/assumptions 3). The host moves are notes/assumptions 4 (DESIGN CHOICE). -/
def Obligations.OnlyCommandsAndResetChangeTheBlock : Prop :=
  ∀ s t : State, step s = .next t →
    t.cfg = s.cfg ∧
    ((∀ op rest, s.host ≠ .issue op :: rest ∧ s.host ≠ .chain op :: rest ∧ s.host ≠ .abandon op :: rest) →
      (∀ rest, s.host ≠ .reset :: rest) →
      t = { s with data := t.data, key := t.key, host := s.host.tail, seen := t.seen })

/-! ### The two paths -/

/-- R95: ENCRYPT. From every state, the host's four moves end with the response of `XorTransform(Frame(P), K)`; for a non-empty
key that is Ok of `len(P) + 4` bytes, and the only failure is InvalidKey, for an empty one. -/
def Obligations.EncryptPath : Prop :=
  ∀ (s : State) (p k : List Byte) (rest : List HostMove),
    fits s.cfg p.length = true → fits s.cfg (p.length + 4) = true → fits s.cfg k.length = true →
    s.host = encryptMoves p k ++ rest →
    ∃ t, runSteps 4 s = .next t ∧ t.host = rest ∧ t.response = Response.ofResult (xorTransform (frame p) k) ∧
      (k ≠ [] → t.st = some 0#2 ∧ t.olen = some (p.length + 4)) ∧ (k = [] → t.st = some 1#2)

/-- R97: DECRYPT. From every state, the host's four moves (notes/assumptions 4, DESIGN CHOICE) end with: InvalidKey for an empty key, whatever the ciphertext;
else TooShort under 4 bytes; else ChecksumMismatch with no plaintext, or Ok of the plaintext. -/
def Obligations.DecryptPath : Prop :=
  ∀ (s : State) (c k : List Byte) (rest : List HostMove),
    fits s.cfg c.length = true → fits s.cfg k.length = true → s.host = decryptMoves c k ++ rest →
    ∃ t, runSteps 4 s = .next t ∧ t.host = rest ∧ t.response = Response.ofResult (decrypt c k) ∧
      (k = [] → t.st = some 1#2) ∧ (k ≠ [] → c.length < 4 → t.st = some 2#2) ∧
      (k ≠ [] → 4 ≤ c.length → (t.st = some 3#2 ∧ t.out = []) ∨ (t.st = some 0#2 ∧ t.olen = some (c.length - 4)))

/-- R99: round trip of the paths, as host moves (notes/assumptions 4, DESIGN CHOICE): ENCRYPT, then DECRYPT of its output under the same non-empty key, from any state
whose length registers hold the frame, verifies and delivers the payload. -/
def Obligations.EncryptThenDecrypt : Prop :=
  ∀ (s : State) (p k : List Byte), k ≠ [] → fits s.cfg p.length = true → fits s.cfg (p.length + 4) = true →
    fits s.cfg k.length = true →
    ∃ c t u, encrypt p k = .ok c ∧
      runSteps 4 { s with host := encryptMoves p k } = .next t ∧ Memory.bytes t.out = c ∧
      runSteps 4 { t with host := decryptMoves c k } = .next u ∧ u.okf = some 1#1 ∧ Memory.bytes u.out = p

/-- R96: the key phase runs on through the trailer: byte `i` of the ciphertext of `P` is `P[i] XOR K[i mod k]` below `len(P)`, and
trailer byte `t` meets the key byte `(len(P) + t) mod k`. -/
def Obligations.KeyPhaseRunsThroughTheTrailer : Prop :=
  ∀ p k : List Byte, k ≠ [] → ∃ o, encrypt p k = .ok o ∧
    (∀ (i : Nat) (b e : Byte), p[i]? = some b → k[i % k.length]? = some e → o[i]? = some (b ^^^ e)) ∧
    (∀ (j : Nat) (b e : Byte), (le32 (fnv1a32 p))[j]? = some b → k[(p.length + j) % k.length]? = some e →
      o[p.length + j]? = some (b ^^^ e))

/-- R98: a different key whose stream agrees over the frame decrypts to the payload all the same; a key that changes exactly one
byte of the candidate gives ChecksumMismatch. -/
def Obligations.WrongKeyOutcome : Prop :=
  (∀ p k k' : List Byte, k ≠ [] → k' ≠ [] →
    (∀ i, i < p.length + 4 → k[i % k.length]? = k'[i % k'.length]?) →
    ∃ c, encrypt p k = .ok c ∧ decrypt c k' = .ok p) ∧
  (∀ (p k k' : List Byte) (j : Nat), k ≠ [] → k' ≠ [] → j < p.length + 4 →
    (∀ i, i < p.length + 4 → (k[i % k.length]? = k'[i % k'.length]? ↔ i ≠ j)) →
    ∃ c, encrypt p k = .ok c ∧ decrypt c k' = .err .checksumMismatch)

/-! ### Reset, invariants, instances -/

/-- R23, R25: at reset no response register and no OUT has a value, the block is idle, and the two constants are hardwired. That
a step at State.reset changes nothing is the model's own: the host's list of moves is empty there (notes/assumptions 4, DESIGN
CHOICE), and a step with no move to come changes nothing (notes/assumptions 11, DEDUCED). -/
def Obligations.ResetIsIdleWithNoResponse : Prop :=
  State.reset.st = none ∧ State.reset.okf = none ∧ State.reset.olen = none ∧ State.reset.hv = none ∧
  State.reset.out = [] ∧ step State.reset = .next State.reset ∧
  fnvOffsetBasis = 0x811C9DC5#32 ∧ fnvPrime = 0x01000193#32

/-- The model's own choice, notes/assumptions 1, 2, 3 and 6, not the spec's (R25 leaves these registers unspecified): the
values the working registers, the operands and the parameters have at reset. -/
def Obligations.ResetValuesTheModelNames : Prop :=
  State.reset.op = 0#8 ∧ State.reset.dlen = 0 ∧ State.reset.klen = 0 ∧ State.reset.idx = 0 ∧ State.reset.kidx = 0 ∧
  State.reset.acc = 0#32 ∧ State.reset.sh = 0#32 ∧ State.reset.data = [] ∧ State.reset.key = [] ∧
  State.reset.cfg.lenw = none ∧ State.reset.freeCtr = 0

/-- The state at reset meets the invariant. -/
def Obligations.ResetMeetsTheInvariant : Prop :=
  State.reset.Inv

/-- R12, R14, R19, R21, R26, R30: every step keeps the invariant: each space holds a ByteBuffer, the response registers agree with
each other, and every length and index register fits `LENW` bits. -/
def Obligations.StepKeepsTheInvariant : Prop :=
  ∀ s t : State, s.Inv → step s = .next t → t.Inv

/-- Every step keeps the canonical form of the three byte spaces, from every state that has it. -/
def Obligations.StepKeepsMemoryCanonical : Prop :=
  ∀ s t : State, Memory.wf s.data = true → Memory.wf s.key = true → Memory.wf s.out = true → step s = .next t →
    Memory.wf t.data = true ∧ Memory.wf t.key = true ∧ Memory.wf t.out = true

/-- Instances share nothing, from R27, in the model's own system: a list of states of which one step moves the one it names
(notes/assumptions 17, DESIGN CHOICE). A step of one is that instance's own step and leaves every other as it was, and the steps
of two different instances give the same system in either order. It is a statement about `System.step` and holds whatever the
step of one instance is. -/
def Obligations.InstancesShareNothing : Prop :=
  (∀ (sys : System) (j : Nat) (s t : State), sys[j]? = some s → step s = .next t →
    ∃ sys', System.step j sys = .next sys' ∧ sys'[j]? = some t ∧ ∀ l, l ≠ j → sys'[l]? = sys[l]?) ∧
  (∀ (sys a b : System) (j l : Nat), j ≠ l → j < sys.length → l < sys.length →
    System.step j sys = .next a → System.step l sys = .next b →
    ∃ c, System.step l a = .next c ∧ System.step j b = .next c)

/-! ### Reserved opcodes by the other moves -/

/-- R52 by the two other host moves that present an opcode (`ReservedOpcodesAreRefused` is about `issue`): `abandon`, and `chain`
with ST = OK and an OUT that has a value. The model's own: the host moves are notes/assumptions 4 (DESIGN CHOICE), the step that
issues and abandons a command notes/assumptions 10 (DEDUCED), the refusal at issue notes/assumptions 13 (DEDUCED), `chain`'s hand
over notes/assumptions 18 (DEDUCED). A reserved opcode is refused as it is by `issue`, and none of the four opcodes is. -/
def Obligations.ChainAndAbandonRefuseReservedOpcodes : Prop :=
  ∀ (s : State) (op : Byte) (rest : List HostMove),
    s.host = .abandon op :: rest ∨ (s.host = .chain op :: rest ∧ s.st = some 0#2 ∧ s.olen ≠ none) →
    (op = 0x00#8 ∨ (0x05 ≤ op.toNat ∧ op.toNat ≤ 0xFF) → step s = .refused (.reservedOpcode op)) ∧
    (op = 0x01#8 ∨ op = 0x02#8 ∨ op = 0x03#8 ∨ op = 0x04#8 → ∀ b, step s ≠ .refused (.reservedOpcode b))
end

