-- ==== Sys2Proof/Laws/Functions.lean ====
section
/-! SUPPORT. Small lemmas of the pure functions: the repeating-key XOR, the hash recurrence, and the `LE32` format. -/

namespace Sys2Proof.Machine

/-! ### The repeating-key XOR -/

@[simp] theorem xorFrom_nil (k : List Byte) (p : Nat) : xorFrom k p [] = [] := rfl

@[simp] theorem xorFrom_cons (k : List Byte) (p : Nat) (b : Byte) (bs : List Byte) :
    xorFrom k p (b :: bs) = (b ^^^ k.getD (p % k.length) 0#8) :: xorFrom k (p + 1) bs := rfl

@[simp] theorem xorFrom_length (k : List Byte) (p : Nat) (d : List Byte) : (xorFrom k p d).length = d.length := by
  induction d generalizing p with
  | nil => rfl
  | cons b bs ih => simp [ih]

@[simp] theorem xorBytes_length (d k : List Byte) : (xorBytes d k).length = d.length :=
  xorFrom_length k 0 d

theorem xorFrom_getElem? (k : List Byte) (p i : Nat) (d : List Byte) :
    (xorFrom k p d)[i]? = (d[i]?).map fun b => b ^^^ k.getD ((p + i) % k.length) 0#8 := by
  induction d generalizing p i with
  | nil => simp
  | cons b bs ih =>
    cases i with
    | zero => simp
    | succ i => simp [ih, show p + 1 + i = p + (i + 1) by omega]

theorem xorFrom_append (k : List Byte) (p : Nat) (a b : List Byte) :
    xorFrom k p (a ++ b) = xorFrom k p a ++ xorFrom k (p + a.length) b := by
  induction a generalizing p with
  | nil => simp
  | cons x a ih => simp [ih, show p + 1 + a.length = p + (a.length + 1) by omega]

/-- The position counts only modulo the key's length. -/
theorem xorFrom_mod (k : List Byte) (p : Nat) (d : List Byte) : xorFrom k (p % k.length) d = xorFrom k p d := by
  apply List.ext_getElem?
  intro i
  simp [xorFrom_getElem?]

/-- The key counter of R15 steps from `i mod KLEN` to `(i + 1) mod KLEN`. -/
theorem nextKeyIndex_mod {k : Nat} (hk : 0 < k) (i : Nat) : nextKeyIndex k (i % k) = (i + 1) % k := by
  have hlt := Nat.mod_lt i hk
  rw [nextKeyIndex, ← Nat.mod_add_mod i k 1]
  split_ifs with h
  · rw [h, Nat.mod_self]
  · exact (Nat.mod_eq_of_lt (by omega)).symm

/-! ### The hash recurrence -/

@[simp] theorem fnvFrom_nil (a : Word) : fnvFrom a [] = a := rfl

@[simp] theorem fnvFrom_cons (a : Word) (b : Byte) (bs : List Byte) : fnvFrom a (b :: bs) = fnvFrom (fnvStep a b) bs := rfl

/-- The recurrence over a joined buffer goes on from the first part's accumulator (42_fnv_hasher.md R70). -/
theorem fnvFrom_append (a : Word) (x y : List Byte) : fnvFrom a (x ++ y) = fnvFrom (fnvFrom a x) y :=
  List.foldl_append

/-! ### The trailer -/

@[simp] theorem le32_length (h : Word) : (le32 h).length = 4 := rfl

@[simp] theorem frame_length (p : List Byte) : (frame p).length = p.length + 4 := by
  simp [frame]

/-- Bit `j` of byte `t` of a HashValue is its bit `8 t + j`. -/
theorem hashByte_getLsbD (h : Word) (t j : Nat) : (hashByte h t).getLsbD j = (decide (j < 8) && h.getLsbD (8 * t + j)) := by
  simp [hashByte]

end Sys2Proof.Machine
end

