-- ==== Sys2Proof/Laws/Memory.lean ====
section
/-! SUPPORT. The laws of one byte space: read after write, what `ofBytes` and `bytes` are to each other, and that every
operation keeps the canonical form. -/

namespace Sys2Proof.Machine

/-! ### Reads and writes -/

@[simp] theorem Memory.read_nil (i : Nat) : Memory.read [] i = none := rfl

theorem Memory.read_write_same (m : Memory) (i : Nat) (v : Byte) : Memory.read (Memory.write m i v) i = some v := by
  induction m with
  | nil => simp [Memory.write, Memory.read]
  | cons c m ih =>
    obtain ⟨a, b⟩ := c
    unfold Memory.write
    split_ifs with h1 h2
    · simp [Memory.read]
    · simp [Memory.read]
    · simp [Memory.read, Ne.symm h2, ih]

theorem Memory.read_write_other (m : Memory) {i j : Nat} (v : Byte) (h : j ≠ i) :
    Memory.read (Memory.write m i v) j = Memory.read m j := by
  induction m with
  | nil => simp [Memory.write, Memory.read, h.symm]
  | cons c m ih =>
    obtain ⟨a, b⟩ := c
    unfold Memory.write
    split_ifs with h1 h2
    · simp [Memory.read, h.symm]
    · subst h2
      simp [Memory.read, h.symm]
    · simp [Memory.read, ih]

/-! ### A buffer placed in a space -/

@[simp] theorem Memory.bytesFrom_placeFrom (k : Nat) (bs : List Byte) :
    Memory.bytesFrom k (Memory.placeFrom k bs) = bs := by
  induction bs generalizing k with
  | nil => rfl
  | cons b bs ih => simp [Memory.placeFrom, Memory.bytesFrom, ih]

@[simp] theorem Memory.bytes_ofBytes (bs : List Byte) : Memory.bytes (Memory.ofBytes bs) = bs :=
  Memory.bytesFrom_placeFrom 0 bs

@[simp] theorem Memory.len_ofBytes (bs : List Byte) : Memory.len (Memory.ofBytes bs) = bs.length := by
  simp [Memory.len]

@[simp] theorem Memory.bytes_nil : Memory.bytes [] = [] := rfl

@[simp] theorem Memory.len_nil : Memory.len [] = 0 := rfl

theorem Memory.ofBytes_nil : Memory.ofBytes [] = [] := rfl

@[simp] theorem Memory.dense_ofBytes (bs : List Byte) : Memory.dense (Memory.ofBytes bs) = true := by
  simp [Memory.dense]

@[simp] theorem Memory.dense_nil : Memory.dense [] = true := rfl

theorem Memory.eq_ofBytes_of_dense {m : Memory} (h : Memory.dense m = true) : m = Memory.ofBytes (Memory.bytes m) := by
  simpa [Memory.dense] using h

theorem Memory.read_placeFrom (k i : Nat) (bs : List Byte) :
    Memory.read (Memory.placeFrom k bs) i = if k ≤ i then bs[i - k]? else none := by
  induction bs generalizing k with
  | nil => simp [Memory.placeFrom]
  | cons b bs ih =>
    rw [Memory.placeFrom, Memory.read, ih]
    rcases Nat.lt_trichotomy k i with h | h | h
    · rw [if_neg (by omega), if_pos (by omega), if_pos (by omega), show i - k = (i - (k + 1)) + 1 by omega]
      simp
    · subst h
      simp
    · rw [if_neg (by omega), if_neg (by omega), if_neg (by omega)]

/-- Reading a placed buffer at `i` gives its byte `i`, and nothing at or above its length. -/
@[simp] theorem Memory.read_ofBytes (bs : List Byte) (i : Nat) : Memory.read (Memory.ofBytes bs) i = bs[i]? := by
  simp [Memory.ofBytes, Memory.read_placeFrom]

theorem Memory.read_bytesFrom {m : Memory} {k j : Nat} {v : Byte} (h : (Memory.bytesFrom k m)[j]? = some v) :
    Memory.read m (k + j) = some v := by
  induction m generalizing k j with
  | nil => simp [Memory.bytesFrom] at h
  | cons c m ih =>
    obtain ⟨a, b⟩ := c
    by_cases ha : a = k
    · subst ha
      cases j with
      | zero => simpa [Memory.read, Memory.bytesFrom] using h
      | succ j =>
        have h' : (Memory.bytesFrom (a + 1) m)[j]? = some v := by simpa [Memory.bytesFrom] using h
        rw [Memory.read, if_neg (by omega), show a + (j + 1) = a + 1 + j by omega]
        exact ih h'
    · simp [Memory.bytesFrom, ha] at h

/-- A byte of the buffer is what a read of its index gives, in every state (20_memory.md R33). -/
theorem Memory.read_of_bytes {m : Memory} {i : Nat} {v : Byte} (h : (Memory.bytes m)[i]? = some v) :
    Memory.read m i = some v := by
  simpa using Memory.read_bytesFrom (k := 0) h

/-- Every index below the length holds a byte (20_memory.md R33: no access is ever out of bounds). -/
theorem Memory.bytes_of_lt {m : Memory} {i : Nat} (h : i < Memory.len m) : ∃ v, (Memory.bytes m)[i]? = some v :=
  ⟨_, List.getElem?_eq_getElem h⟩

/-- The bytes from `i` on, when there is one at `i`. -/
theorem take_drop_of_getElem? {l : List Byte} {i n : Nat} {v : Byte} (h : l[i]? = some v) :
    (l.drop i).take (n + 1) = v :: (l.drop (i + 1)).take n := by
  obtain ⟨hi, rfl⟩ := List.getElem?_eq_some_iff.mp h
  rw [List.drop_eq_getElem_cons hi, List.take_succ_cons]

theorem Memory.write_placeFrom_end (k : Nat) (bs : List Byte) (v : Byte) :
    Memory.write (Memory.placeFrom k bs) (k + bs.length) v = Memory.placeFrom k (bs ++ [v]) := by
  induction bs generalizing k with
  | nil => simp [Memory.placeFrom, Memory.write]
  | cons b bs ih =>
    have := ih (k + 1)
    simp only [Memory.placeFrom, Memory.write, List.length_cons, List.cons_append]
    rw [if_neg (by omega), if_neg (by omega), show k + (bs.length + 1) = k + 1 + bs.length by omega, this]

/-- Writing at the end of a buffer appends the byte: how OUT grows, index by index. -/
theorem Memory.write_end (bs : List Byte) (v : Byte) :
    Memory.write (Memory.ofBytes bs) bs.length v = Memory.ofBytes (bs ++ [v]) := by
  simpa [Memory.ofBytes] using Memory.write_placeFrom_end 0 bs v

/-! ### The canonical form -/

theorem Memory.risingFrom_mono {m : Memory} {j k : Nat} (h : j ≤ k) (hm : Memory.risingFrom k m = true) :
    Memory.risingFrom j m = true := by
  cases m with
  | nil => rfl
  | cons c m =>
    obtain ⟨a, b⟩ := c
    simp only [Memory.risingFrom, Bool.and_eq_true, decide_eq_true_eq] at hm ⊢
    exact ⟨by omega, hm.2⟩

theorem Memory.risingFrom_write {m : Memory} {k i : Nat} (v : Byte) (hk : k ≤ i) (hm : Memory.risingFrom k m = true) :
    Memory.risingFrom k (Memory.write m i v) = true := by
  induction m generalizing k with
  | nil => simp [Memory.write, Memory.risingFrom, hk]
  | cons c m ih =>
    obtain ⟨a, b⟩ := c
    simp only [Memory.risingFrom, Bool.and_eq_true, decide_eq_true_eq] at hm
    unfold Memory.write
    split_ifs with h1 h2
    · simp only [Memory.risingFrom, Bool.and_eq_true, decide_eq_true_eq]
      exact ⟨hk, by omega, hm.2⟩
    · subst h2
      simp only [Memory.risingFrom, Bool.and_eq_true, decide_eq_true_eq]
      exact ⟨hk, hm.2⟩
    · simp only [Memory.risingFrom, Bool.and_eq_true, decide_eq_true_eq]
      exact ⟨hm.1, ih (by omega) hm.2⟩

/-- A write keeps the canonical form. -/
theorem Memory.wf_write {m : Memory} (i : Nat) (v : Byte) (h : Memory.wf m = true) :
    Memory.wf (Memory.write m i v) = true :=
  Memory.risingFrom_write v (Nat.zero_le i) h

theorem Memory.risingFrom_placeFrom (k : Nat) (bs : List Byte) : Memory.risingFrom k (Memory.placeFrom k bs) = true := by
  induction bs generalizing k with
  | nil => rfl
  | cons b bs ih => simp [Memory.placeFrom, Memory.risingFrom, ih]

/-- Placing a buffer gives the canonical form. -/
@[simp] theorem Memory.wf_ofBytes (bs : List Byte) : Memory.wf (Memory.ofBytes bs) = true :=
  Memory.risingFrom_placeFrom 0 bs

/-- A space that holds exactly a ByteBuffer is in canonical form. -/
theorem Memory.wf_of_dense {m : Memory} (h : Memory.dense m = true) : Memory.wf m = true := by
  rw [Memory.eq_ofBytes_of_dense h]
  exact Memory.wf_ofBytes _

/-- Two spaces that hold exactly the same ByteBuffer are equal data. -/
theorem Memory.eq_of_bytes_eq {m n : Memory} (hm : Memory.dense m = true) (hn : Memory.dense n = true)
    (h : Memory.bytes m = Memory.bytes n) : m = n := by
  rw [Memory.eq_ofBytes_of_dense hm, Memory.eq_ofBytes_of_dense hn, h]

end Sys2Proof.Machine
end

