-- ==== Sys2Proof/Laws/State.lean ====
section
/-! SUPPORT. What each named update of State leaves in each field: one lemma per field per update, true by rfl,
so that no later proof unfolds a record update. -/

namespace Sys2Proof.Machine

/-! ### clearing the response (10_state.md R26) -/

@[simp] theorem clearResponse_cfg (s : State) : (clearResponse s).cfg = s.cfg := rfl
@[simp] theorem clearResponse_op (s : State) : (clearResponse s).op = s.op := rfl
@[simp] theorem clearResponse_dlen (s : State) : (clearResponse s).dlen = s.dlen := rfl
@[simp] theorem clearResponse_klen (s : State) : (clearResponse s).klen = s.klen := rfl
@[simp] theorem clearResponse_idx (s : State) : (clearResponse s).idx = s.idx := rfl
@[simp] theorem clearResponse_kidx (s : State) : (clearResponse s).kidx = s.kidx := rfl
@[simp] theorem clearResponse_acc (s : State) : (clearResponse s).acc = s.acc := rfl
@[simp] theorem clearResponse_sh (s : State) : (clearResponse s).sh = s.sh := rfl
@[simp] theorem clearResponse_st (s : State) : (clearResponse s).st = none := rfl
@[simp] theorem clearResponse_okf (s : State) : (clearResponse s).okf = none := rfl
@[simp] theorem clearResponse_olen (s : State) : (clearResponse s).olen = none := rfl
@[simp] theorem clearResponse_hv (s : State) : (clearResponse s).hv = none := rfl
@[simp] theorem clearResponse_data (s : State) : (clearResponse s).data = s.data := rfl
@[simp] theorem clearResponse_key (s : State) : (clearResponse s).key = s.key := rfl
@[simp] theorem clearResponse_out (s : State) : (clearResponse s).out = [] := rfl
@[simp] theorem clearResponse_host (s : State) : (clearResponse s).host = s.host := rfl
@[simp] theorem clearResponse_seen (s : State) : (clearResponse s).seen = s.seen := rfl
@[simp] theorem clearResponse_freeCtr (s : State) : (clearResponse s).freeCtr = s.freeCtr := rfl

/-! ### a write to OUT -/

@[simp] theorem writeOut_cfg (i : Nat) (v : Byte) (s : State) : (writeOut i v s).cfg = s.cfg := rfl
@[simp] theorem writeOut_op (i : Nat) (v : Byte) (s : State) : (writeOut i v s).op = s.op := rfl
@[simp] theorem writeOut_dlen (i : Nat) (v : Byte) (s : State) : (writeOut i v s).dlen = s.dlen := rfl
@[simp] theorem writeOut_klen (i : Nat) (v : Byte) (s : State) : (writeOut i v s).klen = s.klen := rfl
@[simp] theorem writeOut_idx (i : Nat) (v : Byte) (s : State) : (writeOut i v s).idx = s.idx := rfl
@[simp] theorem writeOut_kidx (i : Nat) (v : Byte) (s : State) : (writeOut i v s).kidx = s.kidx := rfl
@[simp] theorem writeOut_acc (i : Nat) (v : Byte) (s : State) : (writeOut i v s).acc = s.acc := rfl
@[simp] theorem writeOut_sh (i : Nat) (v : Byte) (s : State) : (writeOut i v s).sh = s.sh := rfl
@[simp] theorem writeOut_st (i : Nat) (v : Byte) (s : State) : (writeOut i v s).st = s.st := rfl
@[simp] theorem writeOut_okf (i : Nat) (v : Byte) (s : State) : (writeOut i v s).okf = s.okf := rfl
@[simp] theorem writeOut_olen (i : Nat) (v : Byte) (s : State) : (writeOut i v s).olen = s.olen := rfl
@[simp] theorem writeOut_hv (i : Nat) (v : Byte) (s : State) : (writeOut i v s).hv = s.hv := rfl
@[simp] theorem writeOut_data (i : Nat) (v : Byte) (s : State) : (writeOut i v s).data = s.data := rfl
@[simp] theorem writeOut_key (i : Nat) (v : Byte) (s : State) : (writeOut i v s).key = s.key := rfl
@[simp] theorem writeOut_out (i : Nat) (v : Byte) (s : State) : (writeOut i v s).out = Memory.write s.out i v := rfl
@[simp] theorem writeOut_host (i : Nat) (v : Byte) (s : State) : (writeOut i v s).host = s.host := rfl
@[simp] theorem writeOut_seen (i : Nat) (v : Byte) (s : State) : (writeOut i v s).seen = s.seen := rfl
@[simp] theorem writeOut_freeCtr (i : Nat) (v : Byte) (s : State) : (writeOut i v s).freeCtr = s.freeCtr := rfl

/-! ### the next data byte (10_state.md R14) -/

@[simp] theorem nextByte_cfg (s : State) : (nextByte s).cfg = s.cfg := rfl
@[simp] theorem nextByte_op (s : State) : (nextByte s).op = s.op := rfl
@[simp] theorem nextByte_dlen (s : State) : (nextByte s).dlen = s.dlen := rfl
@[simp] theorem nextByte_klen (s : State) : (nextByte s).klen = s.klen := rfl
@[simp] theorem nextByte_idx (s : State) : (nextByte s).idx = s.idx + 1 := rfl
@[simp] theorem nextByte_kidx (s : State) : (nextByte s).kidx = s.kidx := rfl
@[simp] theorem nextByte_acc (s : State) : (nextByte s).acc = s.acc := rfl
@[simp] theorem nextByte_sh (s : State) : (nextByte s).sh = s.sh := rfl
@[simp] theorem nextByte_st (s : State) : (nextByte s).st = s.st := rfl
@[simp] theorem nextByte_okf (s : State) : (nextByte s).okf = s.okf := rfl
@[simp] theorem nextByte_olen (s : State) : (nextByte s).olen = s.olen := rfl
@[simp] theorem nextByte_hv (s : State) : (nextByte s).hv = s.hv := rfl
@[simp] theorem nextByte_data (s : State) : (nextByte s).data = s.data := rfl
@[simp] theorem nextByte_key (s : State) : (nextByte s).key = s.key := rfl
@[simp] theorem nextByte_out (s : State) : (nextByte s).out = s.out := rfl
@[simp] theorem nextByte_host (s : State) : (nextByte s).host = s.host := rfl
@[simp] theorem nextByte_seen (s : State) : (nextByte s).seen = s.seen := rfl
@[simp] theorem nextByte_freeCtr (s : State) : (nextByte s).freeCtr = s.freeCtr := rfl

/-! ### the next key byte (10_state.md R15) -/

@[simp] theorem stepKeyIndex_cfg (s : State) : (stepKeyIndex s).cfg = s.cfg := rfl
@[simp] theorem stepKeyIndex_op (s : State) : (stepKeyIndex s).op = s.op := rfl
@[simp] theorem stepKeyIndex_dlen (s : State) : (stepKeyIndex s).dlen = s.dlen := rfl
@[simp] theorem stepKeyIndex_klen (s : State) : (stepKeyIndex s).klen = s.klen := rfl
@[simp] theorem stepKeyIndex_idx (s : State) : (stepKeyIndex s).idx = s.idx := rfl
@[simp] theorem stepKeyIndex_kidx (s : State) : (stepKeyIndex s).kidx = nextKeyIndex s.klen s.kidx := rfl
@[simp] theorem stepKeyIndex_acc (s : State) : (stepKeyIndex s).acc = s.acc := rfl
@[simp] theorem stepKeyIndex_sh (s : State) : (stepKeyIndex s).sh = s.sh := rfl
@[simp] theorem stepKeyIndex_st (s : State) : (stepKeyIndex s).st = s.st := rfl
@[simp] theorem stepKeyIndex_okf (s : State) : (stepKeyIndex s).okf = s.okf := rfl
@[simp] theorem stepKeyIndex_olen (s : State) : (stepKeyIndex s).olen = s.olen := rfl
@[simp] theorem stepKeyIndex_hv (s : State) : (stepKeyIndex s).hv = s.hv := rfl
@[simp] theorem stepKeyIndex_data (s : State) : (stepKeyIndex s).data = s.data := rfl
@[simp] theorem stepKeyIndex_key (s : State) : (stepKeyIndex s).key = s.key := rfl
@[simp] theorem stepKeyIndex_out (s : State) : (stepKeyIndex s).out = s.out := rfl
@[simp] theorem stepKeyIndex_host (s : State) : (stepKeyIndex s).host = s.host := rfl
@[simp] theorem stepKeyIndex_seen (s : State) : (stepKeyIndex s).seen = s.seen := rfl
@[simp] theorem stepKeyIndex_freeCtr (s : State) : (stepKeyIndex s).freeCtr = s.freeCtr := rfl

/-! ### a byte hashed into ACC (42_fnv_hasher.md R73) -/

@[simp] theorem hashIn_cfg (b : Byte) (s : State) : (hashIn b s).cfg = s.cfg := rfl
@[simp] theorem hashIn_op (b : Byte) (s : State) : (hashIn b s).op = s.op := rfl
@[simp] theorem hashIn_dlen (b : Byte) (s : State) : (hashIn b s).dlen = s.dlen := rfl
@[simp] theorem hashIn_klen (b : Byte) (s : State) : (hashIn b s).klen = s.klen := rfl
@[simp] theorem hashIn_idx (b : Byte) (s : State) : (hashIn b s).idx = s.idx := rfl
@[simp] theorem hashIn_kidx (b : Byte) (s : State) : (hashIn b s).kidx = s.kidx := rfl
@[simp] theorem hashIn_acc (b : Byte) (s : State) : (hashIn b s).acc = fnvStep s.acc b := rfl
@[simp] theorem hashIn_sh (b : Byte) (s : State) : (hashIn b s).sh = s.sh := rfl
@[simp] theorem hashIn_st (b : Byte) (s : State) : (hashIn b s).st = s.st := rfl
@[simp] theorem hashIn_okf (b : Byte) (s : State) : (hashIn b s).okf = s.okf := rfl
@[simp] theorem hashIn_olen (b : Byte) (s : State) : (hashIn b s).olen = s.olen := rfl
@[simp] theorem hashIn_hv (b : Byte) (s : State) : (hashIn b s).hv = s.hv := rfl
@[simp] theorem hashIn_data (b : Byte) (s : State) : (hashIn b s).data = s.data := rfl
@[simp] theorem hashIn_key (b : Byte) (s : State) : (hashIn b s).key = s.key := rfl
@[simp] theorem hashIn_out (b : Byte) (s : State) : (hashIn b s).out = s.out := rfl
@[simp] theorem hashIn_host (b : Byte) (s : State) : (hashIn b s).host = s.host := rfl
@[simp] theorem hashIn_seen (b : Byte) (s : State) : (hashIn b s).seen = s.seen := rfl
@[simp] theorem hashIn_freeCtr (b : Byte) (s : State) : (hashIn b s).freeCtr = s.freeCtr := rfl

/-! ### `complete` (00_scope.md R7) -/

@[simp] theorem complete_cfg (n : Nat) (s : State) : (complete n s).cfg = s.cfg := rfl
@[simp] theorem complete_op (n : Nat) (s : State) : (complete n s).op = s.op := rfl
@[simp] theorem complete_dlen (n : Nat) (s : State) : (complete n s).dlen = s.dlen := rfl
@[simp] theorem complete_klen (n : Nat) (s : State) : (complete n s).klen = s.klen := rfl
@[simp] theorem complete_idx (n : Nat) (s : State) : (complete n s).idx = s.idx := rfl
@[simp] theorem complete_kidx (n : Nat) (s : State) : (complete n s).kidx = s.kidx := rfl
@[simp] theorem complete_acc (n : Nat) (s : State) : (complete n s).acc = s.acc := rfl
@[simp] theorem complete_sh (n : Nat) (s : State) : (complete n s).sh = s.sh := rfl
@[simp] theorem complete_st (n : Nat) (s : State) : (complete n s).st = some statusOk := rfl
@[simp] theorem complete_okf (n : Nat) (s : State) : (complete n s).okf = some (okfOf statusOk) := rfl
@[simp] theorem complete_olen (n : Nat) (s : State) : (complete n s).olen = some n := rfl
@[simp] theorem complete_hv (n : Nat) (s : State) : (complete n s).hv = s.hv := rfl
@[simp] theorem complete_data (n : Nat) (s : State) : (complete n s).data = s.data := rfl
@[simp] theorem complete_key (n : Nat) (s : State) : (complete n s).key = s.key := rfl
@[simp] theorem complete_out (n : Nat) (s : State) : (complete n s).out = s.out := rfl
@[simp] theorem complete_host (n : Nat) (s : State) : (complete n s).host = s.host := rfl
@[simp] theorem complete_seen (n : Nat) (s : State) : (complete n s).seen = s.seen := rfl
@[simp] theorem complete_freeCtr (n : Nat) (s : State) : (complete n s).freeCtr = s.freeCtr := rfl

/-! ### `raise` (60_exceptions.md R112) -/

@[simp] theorem raise_cfg (e : ErrorKind) (s : State) : (raise e s).cfg = s.cfg := rfl
@[simp] theorem raise_op (e : ErrorKind) (s : State) : (raise e s).op = s.op := rfl
@[simp] theorem raise_dlen (e : ErrorKind) (s : State) : (raise e s).dlen = s.dlen := rfl
@[simp] theorem raise_klen (e : ErrorKind) (s : State) : (raise e s).klen = s.klen := rfl
@[simp] theorem raise_idx (e : ErrorKind) (s : State) : (raise e s).idx = s.idx := rfl
@[simp] theorem raise_kidx (e : ErrorKind) (s : State) : (raise e s).kidx = s.kidx := rfl
@[simp] theorem raise_acc (e : ErrorKind) (s : State) : (raise e s).acc = s.acc := rfl
@[simp] theorem raise_sh (e : ErrorKind) (s : State) : (raise e s).sh = s.sh := rfl
@[simp] theorem raise_st (e : ErrorKind) (s : State) : (raise e s).st = some e.code := rfl
@[simp] theorem raise_okf (e : ErrorKind) (s : State) : (raise e s).okf = some (okfOf e.code) := rfl
@[simp] theorem raise_olen (e : ErrorKind) (s : State) : (raise e s).olen = some 0 := rfl
@[simp] theorem raise_hv (e : ErrorKind) (s : State) : (raise e s).hv = none := rfl
@[simp] theorem raise_data (e : ErrorKind) (s : State) : (raise e s).data = s.data := rfl
@[simp] theorem raise_key (e : ErrorKind) (s : State) : (raise e s).key = s.key := rfl
@[simp] theorem raise_out (e : ErrorKind) (s : State) : (raise e s).out = [] := rfl
@[simp] theorem raise_host (e : ErrorKind) (s : State) : (raise e s).host = s.host := rfl
@[simp] theorem raise_seen (e : ErrorKind) (s : State) : (raise e s).seen = s.seen := rfl
@[simp] theorem raise_freeCtr (e : ErrorKind) (s : State) : (raise e s).freeCtr = s.freeCtr := rfl

/-! ### the issue of a command (10_state.md R18) -/

@[simp] theorem latch_cfg (i : Instr) (s : State) : (latch i s).cfg = s.cfg := rfl
@[simp] theorem latch_op (i : Instr) (s : State) : (latch i s).op = opcode i := rfl
@[simp] theorem latch_dlen (i : Instr) (s : State) : (latch i s).dlen = Memory.len s.data := rfl
@[simp] theorem latch_klen (i : Instr) (s : State) :
    (latch i s).klen = if keyIsOperand i then Memory.len s.key else s.klen := rfl
@[simp] theorem latch_idx (i : Instr) (s : State) : (latch i s).idx = s.idx := rfl
@[simp] theorem latch_kidx (i : Instr) (s : State) : (latch i s).kidx = s.kidx := rfl
@[simp] theorem latch_acc (i : Instr) (s : State) : (latch i s).acc = s.acc := rfl
@[simp] theorem latch_sh (i : Instr) (s : State) : (latch i s).sh = s.sh := rfl
@[simp] theorem latch_st (i : Instr) (s : State) : (latch i s).st = none := rfl
@[simp] theorem latch_okf (i : Instr) (s : State) : (latch i s).okf = none := rfl
@[simp] theorem latch_olen (i : Instr) (s : State) : (latch i s).olen = none := rfl
@[simp] theorem latch_hv (i : Instr) (s : State) : (latch i s).hv = none := rfl
@[simp] theorem latch_data (i : Instr) (s : State) : (latch i s).data = s.data := rfl
@[simp] theorem latch_key (i : Instr) (s : State) : (latch i s).key = s.key := rfl
@[simp] theorem latch_out (i : Instr) (s : State) : (latch i s).out = [] := rfl
@[simp] theorem latch_host (i : Instr) (s : State) : (latch i s).host = s.host := rfl
@[simp] theorem latch_seen (i : Instr) (s : State) : (latch i s).seen = s.seen := rfl
@[simp] theorem latch_freeCtr (i : Instr) (s : State) : (latch i s).freeCtr = s.freeCtr := rfl

/-! ### reset (70_reset_and_hazards.md R125) -/

@[simp] theorem resetBlock_cfg (s : State) : (resetBlock s).cfg = s.cfg := rfl
@[simp] theorem resetBlock_op (s : State) : (resetBlock s).op = Config.freeByte s.freeCtr := rfl
@[simp] theorem resetBlock_dlen (s : State) : (resetBlock s).dlen = clip s.cfg (Config.freeLen s.freeCtr) := rfl
@[simp] theorem resetBlock_klen (s : State) : (resetBlock s).klen = clip s.cfg (Config.freeLen (s.freeCtr + 1)) := rfl
@[simp] theorem resetBlock_idx (s : State) : (resetBlock s).idx = clip s.cfg (Config.freeLen (s.freeCtr + 2)) := rfl
@[simp] theorem resetBlock_kidx (s : State) : (resetBlock s).kidx = clip s.cfg (Config.freeLen (s.freeCtr + 3)) := rfl
@[simp] theorem resetBlock_acc (s : State) : (resetBlock s).acc = Config.freeWord s.freeCtr := rfl
@[simp] theorem resetBlock_sh (s : State) : (resetBlock s).sh = Config.freeWord (s.freeCtr + 1) := rfl
@[simp] theorem resetBlock_st (s : State) : (resetBlock s).st = none := rfl
@[simp] theorem resetBlock_okf (s : State) : (resetBlock s).okf = none := rfl
@[simp] theorem resetBlock_olen (s : State) : (resetBlock s).olen = none := rfl
@[simp] theorem resetBlock_hv (s : State) : (resetBlock s).hv = none := rfl
@[simp] theorem resetBlock_data (s : State) : (resetBlock s).data = s.data := rfl
@[simp] theorem resetBlock_key (s : State) : (resetBlock s).key = s.key := rfl
@[simp] theorem resetBlock_out (s : State) : (resetBlock s).out = [] := rfl
@[simp] theorem resetBlock_host (s : State) : (resetBlock s).host = s.host := rfl
@[simp] theorem resetBlock_seen (s : State) : (resetBlock s).seen = s.seen := rfl
@[simp] theorem resetBlock_freeCtr (s : State) : (resetBlock s).freeCtr = s.freeCtr + 4 := rfl

/-! ### a value read by the host -/

@[simp] theorem deliver_cfg (v : Seen) (s : State) : (deliver v s).cfg = s.cfg := rfl
@[simp] theorem deliver_op (v : Seen) (s : State) : (deliver v s).op = s.op := rfl
@[simp] theorem deliver_dlen (v : Seen) (s : State) : (deliver v s).dlen = s.dlen := rfl
@[simp] theorem deliver_klen (v : Seen) (s : State) : (deliver v s).klen = s.klen := rfl
@[simp] theorem deliver_idx (v : Seen) (s : State) : (deliver v s).idx = s.idx := rfl
@[simp] theorem deliver_kidx (v : Seen) (s : State) : (deliver v s).kidx = s.kidx := rfl
@[simp] theorem deliver_acc (v : Seen) (s : State) : (deliver v s).acc = s.acc := rfl
@[simp] theorem deliver_sh (v : Seen) (s : State) : (deliver v s).sh = s.sh := rfl
@[simp] theorem deliver_st (v : Seen) (s : State) : (deliver v s).st = s.st := rfl
@[simp] theorem deliver_okf (v : Seen) (s : State) : (deliver v s).okf = s.okf := rfl
@[simp] theorem deliver_olen (v : Seen) (s : State) : (deliver v s).olen = s.olen := rfl
@[simp] theorem deliver_hv (v : Seen) (s : State) : (deliver v s).hv = s.hv := rfl
@[simp] theorem deliver_data (v : Seen) (s : State) : (deliver v s).data = s.data := rfl
@[simp] theorem deliver_key (v : Seen) (s : State) : (deliver v s).key = s.key := rfl
@[simp] theorem deliver_out (v : Seen) (s : State) : (deliver v s).out = s.out := rfl
@[simp] theorem deliver_host (v : Seen) (s : State) : (deliver v s).host = s.host := rfl
@[simp] theorem deliver_seen (v : Seen) (s : State) : (deliver v s).seen = s.seen ++ [v] := rfl
@[simp] theorem deliver_freeCtr (v : Seen) (s : State) : (deliver v s).freeCtr = s.freeCtr := rfl

/-! ### The free fields of State -/

/-- Two states are equal when all their fields are. -/
theorem State.eq_of_fields {s t : State} (h1 : s.cfg = t.cfg) (h2 : s.op = t.op) (h3 : s.dlen = t.dlen)
    (h4 : s.klen = t.klen) (h5 : s.idx = t.idx) (h6 : s.kidx = t.kidx) (h7 : s.acc = t.acc) (h8 : s.sh = t.sh)
    (h9 : s.st = t.st) (h10 : s.okf = t.okf) (h11 : s.olen = t.olen) (h12 : s.hv = t.hv) (h13 : s.data = t.data)
    (h14 : s.key = t.key) (h15 : s.out = t.out) (h16 : s.host = t.host) (h17 : s.seen = t.seen)
    (h18 : s.freeCtr = t.freeCtr) : s = t := by
  cases s
  cases t
  simp_all

end Sys2Proof.Machine
end

