-- ==== Sys2Proof/Laws/Loops.lean ====
section
/-! SUPPORT. What each shared operation does, said once: sequencing, the accesses of the block, the three loops, and the
operations built of them. -/

namespace Sys2Proof.Machine

open Host (Outcome)

/-! ### Sequencing -/

@[simp] theorem andThen_next (s : State) (f : State → Outcome State Fault Refusal) : andThen (.next s) f = f s := rfl

@[simp] theorem andThen_fault (r : Fault) (f : State → Outcome State Fault Refusal) : andThen (.fault r) f = .fault r := rfl

@[simp] theorem andThen_refused (r : Refusal) (f : State → Outcome State Fault Refusal) :
    andThen (.refused r) f = .refused r := rfl

theorem command_of_admitted {i : Instr} {s : State} (h : admitted i s = true)
    (body : State → Outcome State Fault Refusal) : command i body s = body (latch i s) := by
  simp [command, h]

theorem command_of_not_admitted {i : Instr} {s : State} (h : admitted i s = false)
    (body : State → Outcome State Fault Refusal) : command i body s = .refused .overCapacity := by
  simp [command, h]

/-! ### Accesses -/

theorem withData_of_byte {i : Nat} {s : State} {v : Byte} (h : (Memory.bytes s.data)[i]? = some v)
    (f : Byte → Outcome State Fault Refusal) : withData i s f = f v := by
  rw [withData, Memory.read_of_bytes h]

theorem withKey_of_byte {j : Nat} {s : State} {v : Byte} (h : (Memory.bytes s.key)[j]? = some v)
    (f : Byte → Outcome State Fault Refusal) : withKey j s f = f v := by
  rw [withKey, Memory.read_of_bytes h]

/-! ### The loops -/

/-- The loop of XORT over the next `n` bytes: it never faults, it appends the transformed bytes to OUT, and the key counter stays
the index modulo the key's length (10_state.md R15, 41_xor_cipher.md R61). -/
theorem xorLoop_spec (n : Nat) (s : State) (o : List Byte) (hk : 0 < s.klen) (hkl : s.klen = Memory.len s.key)
    (hki : s.kidx = s.idx % s.klen) (hn : s.idx + n ≤ Memory.len s.data) (ho : s.out = Memory.ofBytes o)
    (hol : o.length = s.idx) :
    xorLoop n s = .next { s with
      out := Memory.ofBytes (o ++ xorFrom (Memory.bytes s.key) s.idx (((Memory.bytes s.data).drop s.idx).take n))
      kidx := (s.idx + n) % s.klen
      idx := s.idx + n } := by
  induction n generalizing s o with
  | zero => simp only [xorLoop, List.take_zero, xorFrom_nil, List.append_nil, Nat.add_zero, ← hki, ← ho]
  | succ n ih =>
    obtain ⟨d, hd⟩ := Memory.bytes_of_lt (m := s.data) (i := s.idx) (by omega)
    obtain ⟨k, hkb⟩ := Memory.bytes_of_lt (m := s.key) (i := s.kidx) (by rw [hki, ← hkl]; exact Nat.mod_lt _ hk)
    have hget : (Memory.bytes s.key)[s.idx % (Memory.bytes s.key).length]?.getD 0#8 = k := by
      rw [← Memory.len, ← hkl, ← hki, hkb]
      rfl
    rw [xorLoop, withData_of_byte hd, withKey_of_byte hkb, ih _ (o ++ [d ^^^ k]) (by simpa using hk) (by simpa using hkl)
      (by simpa [hki] using nextKeyIndex_mod hk s.idx) (by simp; omega) (by simp [ho, ← hol, Memory.write_end])
      (by simp [hol]), take_drop_of_getElem? hd]
    simp [hget, nextByte, stepKeyIndex, writeOut, show s.idx + 1 + n = s.idx + (n + 1) by omega]

/-- The loop of HashBytes over the next `n` bytes: it never faults and continues the recurrence (42_fnv_hasher.md R73). -/
theorem hashLoop_spec (n : Nat) (s : State) (hn : s.idx + n ≤ Memory.len s.data) :
    hashLoop n s = .next { s with
      acc := fnvFrom s.acc (((Memory.bytes s.data).drop s.idx).take n)
      idx := s.idx + n } := by
  induction n generalizing s with
  | zero => simp [hashLoop]
  | succ n ih =>
    obtain ⟨b, hb⟩ := Memory.bytes_of_lt (m := s.data) (i := s.idx) (by omega)
    rw [hashLoop, withData_of_byte hb, ih _ (by simp; omega), take_drop_of_getElem? hb]
    simp [nextByte, hashIn, show s.idx + 1 + n = s.idx + (n + 1) by omega]

/-- HashBytes never faults inside DATA; then `ACC = Fnv1a32(DATA[lo .. hi))` (42_fnv_hasher.md R73). -/
theorem hashBytes_spec {lo hi : Nat} {s : State} (h1 : lo ≤ hi) (h2 : hi ≤ Memory.len s.data) :
    hashBytes lo hi s = .next { s with
      acc := fnv1a32 (((Memory.bytes s.data).drop lo).take (hi - lo))
      idx := hi } := by
  rw [hashBytes, hashLoop_spec _ _ (by simp only; omega)]
  simp only [fnv1a32, show lo + (hi - lo) = hi by omega]

/-- The copy loop never faults inside DATA and appends the bytes to OUT (43_checksum_framer.md R81). -/
theorem copyLoop_spec (n : Nat) (s : State) (o : List Byte) (hn : s.idx + n ≤ Memory.len s.data)
    (ho : s.out = Memory.ofBytes o) (hol : o.length = s.idx) :
    copyLoop n s = .next { s with
      out := Memory.ofBytes (o ++ ((Memory.bytes s.data).drop s.idx).take n)
      idx := s.idx + n } := by
  induction n generalizing s o with
  | zero => simp only [copyLoop, List.take_zero, List.append_nil, Nat.add_zero, ← ho]
  | succ n ih =>
    obtain ⟨b, hb⟩ := Memory.bytes_of_lt (m := s.data) (i := s.idx) (by omega)
    rw [copyLoop, withData_of_byte hb, ih _ (o ++ [b]) (by simp; omega) (by simp [ho, ← hol, Memory.write_end])
      (by simp [hol]), take_drop_of_getElem? hb]
    simp [nextByte, writeOut, show s.idx + 1 + n = s.idx + (n + 1) by omega]

/-- Copying `DATA[0 .. n)` into an empty OUT. -/
theorem copyBytes_spec {n : Nat} {s : State} (hn : n ≤ Memory.len s.data) (ho : s.out = []) :
    copyBytes n s = .next { s with out := Memory.ofBytes ((Memory.bytes s.data).take n), idx := n } := by
  rw [copyBytes, copyLoop_spec n _ [] (by simpa using hn) (by simpa [Memory.ofBytes_nil] using ho) rfl]
  simp

/-- The four trailer writes append `LE32(ACC)` to an OUT of `DLEN` bytes (43_checksum_framer.md R81). -/
theorem writeTrailer_spec {s : State} {o : List Byte} (ho : s.out = Memory.ofBytes o) (hol : o.length = s.dlen) :
    writeTrailer s = { s with out := Memory.ofBytes (o ++ le32 s.acc) } := by
  have e0 : Memory.write s.out s.dlen (hashByte s.acc 0) = Memory.ofBytes (o ++ [hashByte s.acc 0]) := by
    rw [ho, ← hol, Memory.write_end]
  have e1 := Memory.write_end (o ++ [hashByte s.acc 0]) (hashByte s.acc 1)
  have e2 := Memory.write_end (o ++ [hashByte s.acc 0, hashByte s.acc 1]) (hashByte s.acc 2)
  have e3 := Memory.write_end (o ++ [hashByte s.acc 0, hashByte s.acc 1, hashByte s.acc 2]) (hashByte s.acc 3)
  simp only [List.length_append, List.length_cons, List.length_nil, List.append_assoc, List.cons_append, List.nil_append,
    hol] at e1 e2 e3
  norm_num at e1 e2 e3
  simp only [writeTrailer, writeOut, le32, Nat.add_zero, e0, e1, e2, e3]

/-- The storedHash of a buffer of 4 bytes or more is read without a fault (43_checksum_framer.md R86). -/
theorem loadStoredHash_spec {s : State} (h4 : 4 ≤ s.dlen) (hd : s.dlen = Memory.len s.data) :
    loadStoredHash s = .next { s with sh := storedHash (Memory.bytes s.data) } := by
  have byteAt {j : Nat} (hj : j < s.dlen) :
      ∃ v, (Memory.bytes s.data)[j]? = some v ∧ (Memory.bytes s.data).getD j 0#8 = v := by
    obtain ⟨v, hv⟩ := Memory.bytes_of_lt (m := s.data) (i := j) (by omega)
    exact ⟨v, hv, by rw [List.getD_eq_getElem?_getD, hv]; rfl⟩
  obtain ⟨t0, h0, g0⟩ := byteAt (j := s.dlen - 4) (by omega)
  obtain ⟨t1, h1, g1⟩ := byteAt (j := s.dlen - 3) (by omega)
  obtain ⟨t2, h2, g2⟩ := byteAt (j := s.dlen - 2) (by omega)
  obtain ⟨t3, h3, g3⟩ := byteAt (j := s.dlen - 1) (by omega)
  rw [loadStoredHash, withData_of_byte h0, withData_of_byte h1, withData_of_byte h2, withData_of_byte h3, storedHash,
    ← Memory.len, ← hd, g0, g1, g2, g3]

end Sys2Proof.Machine
end

