-- ==== Sys2Proof/Laws/PerInstr.lean ====
section
/-! SUPPORT. A statement made per instruction: the encoding of each command is one well-formed byte, and the decoder reads the
command back from it in the opcode table's own numbering (30_encoding.md R46, R51, R52, R57). -/

namespace Sys2Proof.Laws.Encoding

/-- The command's encoding is a well-formed command, and its opcode as a table word decodes to it. -/
def Statement (i : Instr) : Prop :=
  commandWellFormed (encode i) = true ∧ decodeTableWord 8 (opcode i).toNat = some i

theorem xort : Statement .xort := by
  constructor <;> decide

theorem fnvd : Statement .fnvd := by
  constructor <;> decide

theorem frame : Statement .frame := by
  constructor <;> decide

theorem unfrm : Statement .unfrm := by
  constructor <;> decide

end Sys2Proof.Laws.Encoding
end

