-- ==== Sys2Proof/Laws/Step.lean ====
section
/-! SUPPORT. What a step can do, said once: admission spelled out, and one lemma per move of the host that says when it answers
a next state and which. -/

namespace Sys2Proof.Machine

open Host (Outcome)

/-! ### Admission -/

theorem fits_of_unbounded {c : Config} (h : c.lenw = none) (n : Nat) : fits c n = true := by
  simp [fits, h]

theorem fits_iff_le {c : Config} {w : Nat} (h : c.lenw = some w) (n : Nat) : fits c n = true ↔ n ≤ 2 ^ w - 1 := by
  unfold fits
  rw [h]
  exact decide_eq_true_iff

@[simp] theorem fits_zero (c : Config) : fits c 0 = true := by
  cases h : c.lenw with
  | none => exact fits_of_unbounded h 0
  | some w => exact (fits_iff_le h 0).2 (Nat.zero_le _)

/-- What is no longer than a length that fits, fits. -/
theorem fits_mono {c : Config} {m n : Nat} (h : fits c n = true) (hmn : m ≤ n) : fits c m = true := by
  cases hw : c.lenw with
  | none => exact fits_of_unbounded hw m
  | some w => exact (fits_iff_le hw m).2 (hmn.trans ((fits_iff_le hw n).1 h))

/-- A free number cut to `LENW` bits fits. -/
theorem fits_clip (c : Config) (n : Nat) : fits c (clip c n) = true := by
  cases hw : c.lenw with
  | none => exact fits_of_unbounded hw _
  | some w =>
    refine (fits_iff_le hw _).2 ?_
    simp only [clip, hw]
    exact Nat.le_sub_one_of_lt (Nat.mod_lt n (Nat.two_pow_pos w))

theorem admitted_xort (s : State) :
    admitted .xort s = true ↔ fits s.cfg (Memory.len s.data) = true ∧ fits s.cfg (Memory.len s.key) = true := by
  simp [admitted]

theorem admitted_fnvd (s : State) : admitted .fnvd s = true ↔ fits s.cfg (Memory.len s.data) = true := by
  simp [admitted]

theorem admitted_frame (s : State) :
    admitted .frame s = true ↔ fits s.cfg (Memory.len s.data) = true ∧ fits s.cfg (Memory.len s.data + 4) = true := by
  simp [admitted, trailerLen]

theorem admitted_unfrm (s : State) : admitted .unfrm s = true ↔ fits s.cfg (Memory.len s.data) = true := by
  simp [admitted]

/-- Whatever is not admitted is refused as over capacity (30_encoding.md R53). -/
theorem exec_of_not_admitted {i : Instr} {s : State} (h : admitted i s = false) : exec i s = .refused .overCapacity := by
  cases i <;> simp [exec, execXort, execFnvd, execFrame, execUnfrm, command_of_not_admitted h]

/-! ### Steps -/

theorem step_of_idle {s : State} (h : s.host = []) : step s = .next s := by
  simp [step, nextMove, h]

theorem step_of_move {s : State} {m : HostMove} {rest : List HostMove} (h : s.host = m :: rest) :
    step s = hostMove m { s with host := rest } := by
  simp [step, nextMove, h]

theorem andThen_eq_next {o : Outcome State Fault Refusal} {f : State → Outcome State Fault Refusal} {t : State} :
    andThen o f = .next t ↔ ∃ u, o = .next u ∧ f u = .next t := by
  cases o <;> simp [andThen]

theorem issue_eq_next {op : Byte} {s t : State} :
    issue op s = .next t ↔ ∃ i, decodeByte op = some i ∧ exec i s = .next t := by
  unfold issue
  cases decodeByte op <;> simp

theorem abandonCommand_eq_next {op : Byte} {s t : State} :
    abandonCommand op s = .next t ↔ ∃ i, decodeByte op = some i ∧ admitted i s = true ∧ t = resetBlock s := by
  unfold abandonCommand
  cases decodeByte op with
  | none => simp
  | some i =>
    cases h : admitted i s
    · simp [h]
    · simp [h, eq_comm (a := t)]

theorem handOver_eq_next {s t : State} : handOver s = .next t ↔ s.olen ≠ none ∧ t = { s with data := s.out } := by
  unfold handOver
  cases s.olen <;> simp [eq_comm]

theorem chainCommand_eq_next {op : Byte} {s t : State} :
    chainCommand op s = .next t ↔
      (s.st = some statusOk ∧ s.olen ≠ none ∧ issue op { s with data := s.out } = .next t) ∨
      (∃ c, s.st = some c ∧ c ≠ statusOk ∧ t = s) := by
  rcases Option.eq_none_or_eq_some s.st with hs | ⟨c, hs⟩
  · simp [chainCommand, hs]
  · by_cases hc : c = statusOk
    · simp [chainCommand, hs, hc, andThen_eq_next, handOver_eq_next, and_assoc]
    · simp [chainCommand, hs, hc, eq_comm (a := t)]

theorem readRegister_eq_next {α : Type} {r : RespReg} {value : Option α} {wrap : α → Seen} {s t : State} :
    readRegister r value wrap s = .next t ↔ ∃ v, value = some v ∧ t = deliver (wrap v) s := by
  unfold readRegister
  cases value <;> simp [eq_comm]

theorem readOutByte_eq_next {i : Nat} {s t : State} :
    readOutByte i s = .next t ↔
      ∃ n b, s.olen = some n ∧ i < n ∧ Memory.read s.out i = some b ∧ t = deliver (.out i b) s := by
  unfold readOutByte
  cases s.olen with
  | none => simp
  | some n =>
    by_cases hi : i < n
    · cases Memory.read s.out i <;> simp [hi, eq_comm]
    · simp [hi]

end Sys2Proof.Machine
end

