-- ==== Sys2Proof/Tests/Slice0.lean ====
section
/-! SUPPORT. Tests: decoding of words written out from the opcode map, ill-formed terms the checks refuse, at most two one-step
tests per command with results from spec/95_test_vectors.md, and a witness for the hypotheses of each obligation. -/

namespace Sys2Proof.Tests

open Sys2Proof Sys2Proof.Machine

/-! ### Helpers -/

def nextOf : Host.Outcome State Fault Refusal → Option State
  | .next s => some s
  | .fault _ => none
  | .refused _ => none

def faultOf : Host.Outcome State Fault Refusal → Option Fault
  | .next _ => none
  | .fault r => some r
  | .refused _ => none

def refusalOf : Host.Outcome State Fault Refusal → Option Refusal
  | .next _ => none
  | .fault _ => none
  | .refused r => some r

/-- The response a command leaves, when it completes. -/
def responseAfter (o : Host.Outcome State Fault Refusal) : Option Response :=
  (nextOf o).map State.response

/-- A state with these operands placed, `LENW` unbounded. -/
def withOperands (d k : List Byte) : State :=
  { State.reset with data := Memory.ofBytes d, key := Memory.ofBytes k }

/-- The same with `LENW` of 3 bits: MAXLEN is 7. -/
def narrow (d k : List Byte) : State :=
  { withOperands d k with cfg := ⟨some 3⟩ }

/-- The same with these host moves to come. -/
def withMoves (s : State) (ms : List HostMove) : State :=
  { s with host := ms }

def hello : List Byte := [0x68#8, 0x65#8, 0x6c#8, 0x6c#8, 0x6f#8]

def helloFrame : List Byte := hello ++ [0xab#8, 0x2c#8, 0x9f#8, 0x4f#8]

def keyKey : List Byte := [0x6b#8, 0x65#8, 0x79#8]

/-! ### Decoding: words written out from 30_encoding.md R51 -/

theorem test_decode_xort : decode [0b00000001#8] = .command .xort [] := by decide

theorem test_decode_fnvd : decode [0b00000010#8] = .command .fnvd [] := by decide

theorem test_decode_frame : decode [0b00000011#8] = .command .frame [] := by decide

theorem test_decode_unfrm : decode [0b00000100#8] = .command .unfrm [] := by decide

/-- A second byte is not part of the command (R57). -/
theorem test_decode_leaves_rest : decode [0x03#8, 0x01#8] = .command .frame [0x01#8] := by decide

/-- V-S7: 0x00, 0x05, 0x80 and 0xff are refused. -/
theorem test_decode_reserved :
    decode [0x00#8] = .reserved 0x00#8 ∧ decode [0x05#8] = .reserved 0x05#8 ∧ decode [0x80#8] = .reserved 0x80#8 ∧
    decode [0xff#8] = .reserved 0xff#8 := by decide

theorem test_decode_table_words :
    decodeTableWord 8 1 = some .xort ∧ decodeTableWord 8 4 = some .unfrm ∧ decodeTableWord 8 0 = none ∧
    decodeTableWord 8 5 = none := by decide

/-! ### Well-formedness: an ill-formed term for each check -/

theorem test_opcode_zero_is_ill_formed : opcodeWellFormed 0x00#8 = false := by decide

theorem test_opcode_five_is_ill_formed : opcodeWellFormed 0x05#8 = false ∧ opcodeWellFormed 0x04#8 = true := by decide

theorem test_two_bytes_are_ill_formed : commandWellFormed [0x01#8, 0x01#8] = false ∧ commandWellFormed [] = false := by decide

theorem test_xort_key_over_capacity : admitted .xort (narrow [] [0, 1, 2, 3, 4, 5, 6, 7]) = false := by decide

theorem test_frame_result_over_capacity :
    admitted .frame (narrow [1, 2, 3, 4] []) = false ∧ admitted .frame (narrow [1, 2, 3] []) = true := by decide

theorem test_data_over_capacity : admitted .fnvd (narrow [0, 1, 2, 3, 4, 5, 6, 7] []) = false := by decide

/-! ### One step per command, from 95_test_vectors.md -/

/-- V-X4: bytes at and above 0x80, key shorter than the data. -/
theorem test_xort_key_repeats :
    responseAfter (exec .xort (withOperands [0x00, 0x11, 0x22, 0x33, 0x44, 0x55, 0x66, 0x77] [0xa0, 0x0b, 0xff])) =
      some (.ofResult (.ok [0xa0, 0x1a, 0xdd, 0x93, 0x4f, 0xaa, 0xc6, 0x7c])) := by decide

/-- V-X8: an empty key wins over empty data. -/
theorem test_xort_empty_key :
    responseAfter (exec .xort (withOperands [] [])) = some ⟨some 1#2, some 0#1, some 0, [], none⟩ := by decide

/-- V-F3, the source's vector. -/
theorem test_fnvd_hello :
    responseAfter (exec .fnvd (withOperands hello [])) = some ⟨some 0#2, some 1#1, some 0, [], some 0x4f9f2cab#32⟩ := by decide

/-- V-F5: a byte of 0x80 is zero-extended. -/
theorem test_fnvd_high_byte :
    ((nextOf (exec .fnvd (withOperands [0x80#8] []))).map fun t => t.hv) = some (some 0x850b939f#32) := by decide

/-- V-R3: the trailer is little-endian. -/
theorem test_frame_hello :
    responseAfter (exec .frame (withOperands hello [])) = some (.ofResult (.ok helloFrame)) := by decide

/-- V-R1: the empty payload. -/
theorem test_frame_empty :
    responseAfter (exec .frame (withOperands [] [])) = some (.ofResult (.ok [0xc5, 0x9d, 0x1c, 0x81])) := by decide

/-- V-U9: a payload bit flipped; nothing is delivered. -/
theorem test_unfrm_mismatch :
    responseAfter (exec .unfrm (withOperands [0x69, 0x65, 0x6c, 0x6c, 0x6f, 0xab, 0x2c, 0x9f, 0x4f] [])) =
      some ⟨some 3#2, some 0#1, some 0, [], none⟩ := by decide

/-- V-U16: a payload byte at and above 0x80 verifies. -/
theorem test_unfrm_verified :
    responseAfter (exec .unfrm (withOperands [0xff, 0x4e, 0x82, 0x0b, 0x7a] [])) = some (.ofResult (.ok [0xff])) := by decide

/-- V-P3: the key index runs on through the trailer. -/
theorem test_encrypt_key_phase :
    encrypt hello keyKey = .ok [0x03, 0x00, 0x15, 0x07, 0x0a, 0xd2, 0x47, 0xfa, 0x36] := by decide

/-- V-P5: a wrong key. -/
theorem test_decrypt_wrong_key :
    decrypt [0x03, 0x00, 0x15, 0x07, 0x0a, 0xd2, 0x47, 0xfa, 0x36] [0x6b, 0x65, 0x7a] = .err .checksumMismatch := by decide

/-- V-S5: after reset a read of ST is the host's fault. -/
theorem test_read_st_after_reset :
    faultOf (step (withMoves State.reset [.readSt])) = some (.noValue .st) := by decide

/-- V-S6: a read of HV after FRAME is the host's fault. -/
theorem test_read_hv_after_frame :
    ((nextOf (exec .frame (withOperands [0x61#8] []))).map fun t => faultOf (step (withMoves t [.readHv]))) =
      some (some (.noValue .hv)) := by decide

/-- The opcode table's first word runs as the first command after reset. -/
theorem test_first_step_after_reset :
    responseAfter (step (State.reset.withFetchWord 8 1)) = some ⟨some 1#2, some 0#1, some 0, [], none⟩ := by decide

/-! ### Witnesses: concrete states and operands that meet the hypotheses of each obligation -/

theorem test_witness_ReservedOpcodesAreRefused :
    refusalOf (step (withMoves State.reset [.issue 0x00#8])) = some (.reservedOpcode 0x00#8) ∧
    refusalOf (step (withMoves State.reset [.issue 0x05#8])) = some (.reservedOpcode 0x05#8) ∧
    refusalOf (step (withMoves State.reset [.issue 0xff#8])) = some (.reservedOpcode 0xff#8) ∧
    refusalOf (step (withMoves State.reset [.issue 0x01#8])) = none ∧
    refusalOf (step (withMoves State.reset [.issue 0x04#8])) = none := by decide

/-- FRAME's response in place, so that the second clause's `st` and `olen` hold. -/
def framed : State :=
  { withOperands hello keyKey with
    st := some 0#2, okf := some 1#1, olen := some 9, out := Memory.ofBytes helloFrame }

theorem test_witness_StepRunsTheDecodedCommand :
    (withMoves framed [.issue 0x02#8]).host = .issue 0x02#8 :: [] ∧ decode [0x02#8] = .command .fnvd [] ∧
    (withMoves framed [.chain 0x01#8]).host = .chain 0x01#8 :: [] ∧ decode [0x01#8] = .command .xort [] ∧
    framed.st = some 0#2 ∧ framed.olen = some 9 := by decide

theorem test_witness_IdleStepChangesNothing : State.reset.host = [] := by decide

theorem test_witness_XorTransformFormula :
    keyKey ≠ [] ∧ hello[4]? = some 0x6f#8 ∧ keyKey[4 % keyKey.length]? = some 0x65#8 ∧
    xorTransform hello [] = .err .invalidKey := by decide

theorem test_witness_XortRuns :
    admitted .xort (withOperands hello keyKey) = true ∧ admitted .xort (withOperands hello []) = true ∧
    admitted .xort (narrow [0, 1, 2, 3, 4, 5, 6] [0, 1, 2, 3, 4, 5, 6]) = true := by decide

theorem test_witness_KeyCounterIsIndexModLength :
    ((nextOf (xorLoop 4 { withOperands hello keyKey with klen := 3 })).map fun t => (t.idx, t.kidx)) = some (4, 1) := by decide

theorem test_witness_XorSplitsWithRotatedKey :
    keyKey ≠ [] ∧ rotateKey keyKey 5 = [0x79, 0x6b, 0x65] ∧ (List.replicate 2 keyKey).flatten ≠ [] := by decide

theorem test_witness_FnvDigestRecurrence :
    ∃ a : Nat → Word, a 0 = 2166136261#32 ∧
      ∀ (i : Nat) (b : Byte), ([0x61#8] : List Byte)[i]? = some b → a (i + 1) = fnvStep (a i) b := by
  refine ⟨fun n => if n = 0 then 2166136261#32 else fnvStep 2166136261#32 0x61#8, rfl, ?_⟩
  intro i b h
  cases i with
  | zero =>
    cases h
    rfl
  | succ i => simp at h

theorem test_witness_FnvdRuns : admitted .fnvd (withOperands hello []) = true ∧ admitted .fnvd (narrow hello []) = true := by decide

/-- A last byte of 0x80 after one of 0x00; bits 7 and 8 of the spec's example, where the two ranges of bits meet: a sign
extension would have cleared bit 8. -/
theorem test_witness_HashByteIsZeroExtended :
    admitted .fnvd (withOperands [0x00#8, 0x80#8] []) = true ∧
    Memory.bytes (withOperands [0x00#8, 0x80#8] []).data = [0x00#8] ++ [0x80#8] ∧
    (0x811c9d45#32).getLsbD 7 = ((0x811c9dc5#32).getLsbD 7 != (0x80#8).getLsbD 7) ∧
    (0x811c9d45#32).getLsbD 8 = (0x811c9dc5#32).getLsbD 8 ∧ (0x7ee36245#32).getLsbD 8 ≠ (0x811c9dc5#32).getLsbD 8 := by decide

theorem test_witness_OneByteChangesTheDigest : (0x68#8 : Byte) ≠ 0x69#8 := by decide

theorem test_witness_FnvdKnownVectors : fnv1a32 [0xff#8] = 0x7a0b824e#32 := by decide

theorem test_witness_FrameRuns : admitted .frame (withOperands [] []) = true ∧ admitted .frame (narrow [1, 2, 3] []) = true := by decide

/-- Lengths 3 and 4, where the first two clauses meet; a matching and a differing trailer. -/
theorem test_witness_UnframeFormula :
    ([0x61, 0x62, 0x63] : List Byte).length < 4 ∧
    fnv1a32 [] = le32dec 0xc5#8 0x9d#8 0x1c#8 0x81#8 ∧ fnv1a32 [] ≠ le32dec 0x81#8 0x1c#8 0x9d#8 0xc5#8 := by decide

theorem test_witness_UnfrmRuns :
    admitted .unfrm (withOperands [0x61, 0x62, 0x63] []) = true ∧ admitted .unfrm (withOperands [0, 0, 0, 0] []) = true ∧
    admitted .unfrm (withOperands helloFrame []) = true := by decide

theorem test_witness_TamperingIsDetected :
    (frame hello)[8]? ≠ some 0xcf#8 ∧ (8 : Nat) < hello.length + 4 ∧
    admitted .unfrm (withOperands ((frame hello).set 8 0xcf#8) []) = true ∧
    ([0x4f, 0x9f, 0x2c, 0xab] : List Byte) ≠ le32 (fnv1a32 hello) ∧
    admitted .unfrm (withOperands (hello ++ [0x4f, 0x9f, 0x2c, 0xab]) []) = true ∧
    admitted .unfrm (withOperands ((frame hello).take 3) []) = true := by decide

/-- Two states that agree on DATA only, for FNVD, and on DATA and KEY, for XORT; every other register differs. -/
theorem test_witness_ResponseDependsOnOperandsAlone :
    admitted .fnvd (withOperands hello []) = true ∧ admitted .fnvd { narrow hello keyKey with acc := 7#32, hv := some 1#32 } = true ∧
    admitted .xort (withOperands hello keyKey) = true ∧ admitted .xort { narrow hello keyKey with kidx := 2 } = true ∧
    Memory.bytes (withOperands hello keyKey).data = Memory.bytes (narrow hello keyKey).data ∧
    Memory.bytes (withOperands hello keyKey).key = Memory.bytes (narrow hello keyKey).key := by decide

theorem test_witness_CapacityDecidesAdmission :
    refusalOf (exec .frame (narrow [1, 2, 3, 4] [])) = some .overCapacity ∧
    (nextOf (exec .frame (narrow [1, 2, 3] []))).isSome = true ∧
    refusalOf (exec .xort (narrow [] [0, 1, 2, 3, 4, 5, 6, 7])) = some .overCapacity ∧
    (nextOf (exec .unfrm (narrow [0, 1, 2, 3, 4, 5, 6] [0, 1, 2, 3, 4, 5, 6, 7]))).isSome = true := by decide

/-- The hypotheses of XorIsSelfInverse, FrameThenUnframe, CommandsRefineTheFunctions, CommandsNeverFault and
ShortBuffersRaiseTooShort, the last at 3 and at 4 bytes. -/
theorem test_witness_admitted :
    keyKey ≠ [] ∧ admitted .xort (withOperands hello keyKey) = true ∧ admitted .fnvd (withOperands hello []) = true ∧
    admitted .frame (narrow [1, 2, 3] []) = true ∧ admitted .frame (narrow [1, 2, 3, 4] []) = false ∧
    admitted .unfrm (withOperands [0, 0, 0] []) = true ∧ admitted .unfrm (withOperands [0, 0, 0, 0] []) = true := by decide

/-- A next state for each command and each outcome, for ErrorsAndTheirCauses, IssueLatchesOpcodeAndLengths, UnusedKeyHasNoEffect,
OkFlagFollowsStatus, OutputLengths, HashValueOnlyAfterFnvd and CommandFrame. -/
theorem test_witness_exec_next :
    (nextOf (exec .xort (withOperands hello keyKey))).isSome = true ∧ (nextOf (exec .xort (withOperands hello []))).isSome = true ∧
    (nextOf (exec .fnvd (withOperands hello keyKey))).isSome = true ∧ (nextOf (exec .frame (withOperands hello keyKey))).isSome = true ∧
    (nextOf (exec .unfrm (withOperands helloFrame keyKey))).isSome = true ∧
    (nextOf (exec .unfrm (withOperands hello keyKey))).isSome = true ∧
    (nextOf (exec .unfrm (withOperands [] keyKey))).isSome = true := by decide

theorem test_witness_AccumulatorStartsFresh :
    admitted .unfrm (withOperands [0, 0, 0, 0] []) = true ∧ 4 ≤ Memory.len (withOperands [0, 0, 0, 0] []).data := by decide

/-- Reads with a value, a read of the last byte of OUT and one just beyond it, and a state with no response at all. -/
theorem test_witness_ReadsNeedAValue :
    ((nextOf (step (withMoves framed [.readOut 8]))).map fun t => t.seen) = some [.out 8 0x4f#8] ∧
    faultOf (step (withMoves framed [.readOut 9])) = some (.noSuchByte .out 9) ∧
    ((nextOf (step (withMoves framed [.readOkf]))).map fun t => t.seen) = some [.okf 1#1] ∧
    faultOf (step (withMoves State.reset [.readOut 0])) = some (.noValue .out) ∧
    State.reset.response = Response.noValue ∧ (nextOf (step (withMoves State.reset [.putKey keyKey]))).isSome = true := by decide

theorem test_witness_HostPlacesOperands :
    ((nextOf (step (withMoves State.reset [.putData hello]))).map fun t => Memory.bytes t.data) = some hello ∧
    ((nextOf (step (withMoves State.reset [.putKey keyKey]))).map fun t => Memory.bytes t.key) = some keyKey := by decide

theorem test_witness_ErrorStopsThePath :
    ((nextOf (step (withMoves { framed with st := some 1#2 } [.chain 0x04#8]))).map fun t => t.st) = some (some 1#2) ∧
    faultOf (step (withMoves State.reset [.chain 0x04#8])) = some (.noValue .st) ∧
    ((nextOf (step (withMoves framed [.passOut]))).map fun t => Memory.bytes t.data) = some helloFrame ∧
    faultOf (step (withMoves State.reset [.passOut])) = some (.noValue .out) := by decide

theorem test_witness_ResetAbandonsTheCommand :
    (nextOf (step (withMoves framed [.reset]))).isSome = true ∧
    (nextOf (step (withMoves framed [.abandon 0x03#8, .issue 0x03#8]))).isSome = true ∧
    (nextOf (step (withMoves framed [.issue 0x03#8]))).isSome = true ∧
    ((nextOf (step (withMoves framed [.abandon 0x01#8, .putKey []]))).map fun t => t.host) = some [.putKey []] ∧
    decode [0x03#8] = .command .frame [] ∧
    admitted .frame (narrow [1, 2, 3] []) = true ∧ admitted .frame (narrow [1, 2, 3, 4] []) = false ∧
    (nextOf (step (withMoves (narrow [1, 2, 3] []) [.abandon 0x03#8]))).isSome = true ∧
    refusalOf (step (withMoves (narrow [1, 2, 3, 4] []) [.abandon 0x03#8])) = some .overCapacity ∧
    refusalOf (step (withMoves framed [.abandon 0x05#8])) = some (.reservedOpcode 0x05#8) := by decide

theorem test_witness_OnlyCommandsAndResetChangeTheBlock :
    ((nextOf (step (withMoves framed [.putData []]))).map fun t => t.st) = some (some 0#2) := by decide

theorem test_witness_EncryptPath :
    ((nextOf (runSteps 4 (withMoves State.reset (encryptMoves hello keyKey)))).map fun t => t.olen) = some (some 9) ∧
    ((nextOf (runSteps 4 (withMoves State.reset (encryptMoves hello [])))).map fun t => t.st) = some (some 1#2) := by decide

/-- V-P12, V-P11 and V-P8: the three errors of the path. -/
theorem test_witness_DecryptPath :
    ((nextOf (runSteps 4 (withMoves State.reset (decryptMoves [0x0a, 0x09, 0x08] [])))).map fun t => t.st) = some (some 1#2) ∧
    ((nextOf (runSteps 4 (withMoves State.reset (decryptMoves [0x0a, 0x09, 0x08] [0x6b#8])))).map fun t => t.st) =
      some (some 2#2) ∧
    ((nextOf (runSteps 4 (withMoves State.reset
      (decryptMoves [0x03, 0x00, 0x1d, 0x07, 0x0a, 0xd2, 0x47, 0xfa, 0x36] keyKey)))).map fun t => t.st) = some (some 3#2) := by decide

theorem test_witness_EncryptThenDecrypt :
    keyKey ≠ [] ∧ fits ⟨some 3⟩ 3 = true ∧ fits ⟨some 3⟩ (3 + 4) = true ∧ fits ⟨some 3⟩ keyKey.length = true := by decide

theorem test_witness_KeyPhaseRunsThroughTheTrailer :
    (le32 (fnv1a32 hello))[3]? = some 0x4f#8 ∧ keyKey[(hello.length + 3) % keyKey.length]? = some 0x79#8 := by decide

/-- A key repeated twice has the same stream; the key `kez` differs from `key` at one position of a frame of an empty payload
(position 2 of 4). -/
theorem test_witness_WrongKeyOutcome :
    (∀ i : Fin 9, keyKey[i.val % keyKey.length]? = (keyKey ++ keyKey)[i.val % (keyKey ++ keyKey).length]?) ∧
    (∀ i : Fin 4, keyKey[i.val % 3]? = ([0x6b, 0x65, 0x7a] : List Byte)[i.val % 3]? ↔ i.val ≠ 2) := by decide

/-- A state with a response in place and a host move to come meets the invariant, and its step answers a next state. -/
theorem test_witness_StepKeepsTheInvariant :
    (withMoves framed [.passOut]).Inv ∧ (nextOf (step (withMoves framed [.passOut]))).isSome = true := by
  refine ⟨⟨by decide, by decide, by decide, Or.inr ⟨0#2, 9, rfl, rfl, rfl, by decide, by decide, by decide⟩, rfl, rfl, rfl, rfl,
    fun _ _ => rfl⟩, by decide⟩

theorem test_witness_StepKeepsMemoryCanonical :
    Memory.wf framed.data = true ∧ Memory.wf framed.key = true ∧ Memory.wf framed.out = true ∧
    Memory.wf [(1, 0#8), (0, 0#8)] = false ∧ (nextOf (step (withMoves framed [.passOut]))).isSome = true := by decide

/-- Both clauses at a pass of no byte and at one of several. -/
theorem test_witness_IndexEndsAtThePassLength :
    admitted .fnvd (withOperands hello []) = true ∧ admitted .frame (withOperands [] []) = true ∧
    admitted .unfrm (withOperands [0, 0, 0, 0] []) = true ∧ 4 ≤ Memory.len (withOperands [0, 0, 0, 0] []).data ∧
    ((nextOf (exec .unfrm (withOperands helloFrame []))).map fun t => t.idx) = some 5 := by decide

/-- Each kind of read, with the first and the last byte of OUT. -/
theorem test_witness_HostReadsDeliverTheValue :
    ((nextOf (step (withMoves framed [.readSt]))).map fun t => t.seen) = some [.st 0#2] ∧
    ((nextOf (step (withMoves framed [.readOkf]))).map fun t => t.seen) = some [.okf 1#1] ∧
    ((nextOf (step (withMoves framed [.readOlen]))).map fun t => t.seen) = some [.olen 9] ∧
    ((nextOf (step (withMoves { framed with hv := some 0x4f9f2cab#32 } [.readHv]))).map fun t => t.seen) =
      some [.hv 0x4f9f2cab#32] ∧
    ((nextOf (step (withMoves framed [.readOut 0]))).map fun t => t.seen) = some [.out 0 0x68#8] ∧
    ((nextOf (step (withMoves framed [.readOut 8]))).map fun t => t.seen) = some [.out 8 0x4f#8] := by decide

/-- Two instances, the first to read the status it holds and the second to run FRAME on an empty payload. -/
def twoInstances : System :=
  [withMoves framed [.readSt], withMoves (withOperands [] []) [.issue 0x03#8]]

/-- OLEN of each instance (0 where it has no value) and how many values its host has read, where a step answers a next system. -/
def systemAfter (o : Host.Outcome System Fault Refusal) : Option (List (Nat × Nat)) :=
  match o with
  | .next sys => some (sys.map fun t => (t.olen.getD 0, t.seen.length))
  | .fault _ => none
  | .refused _ => none

/-- The second step from what the first leaves. -/
def stepAgain (j : Nat) (o : Host.Outcome System Fault Refusal) : Host.Outcome System Fault Refusal :=
  match o with
  | .next sys => System.step j sys
  | .fault r => .fault r
  | .refused r => .refused r

/-- Each of the two steps by itself, and the two in either order. -/
theorem test_witness_InstancesShareNothing :
    systemAfter (System.step 0 twoInstances) = some [(9, 1), (0, 0)] ∧
    systemAfter (System.step 1 twoInstances) = some [(9, 0), (4, 0)] ∧
    systemAfter (stepAgain 1 (System.step 0 twoInstances)) = some [(9, 1), (4, 0)] ∧
    systemAfter (stepAgain 0 (System.step 1 twoInstances)) = some [(9, 1), (4, 0)] := by decide

/-- Both moves, at the reserved opcodes next to the four and at the four's ends. -/
theorem test_witness_ChainAndAbandonRefuseReservedOpcodes :
    framed.st = some 0#2 ∧ framed.olen ≠ none ∧
    refusalOf (step (withMoves framed [.chain 0x00#8])) = some (.reservedOpcode 0x00#8) ∧
    refusalOf (step (withMoves framed [.chain 0x05#8])) = some (.reservedOpcode 0x05#8) ∧
    refusalOf (step (withMoves framed [.abandon 0xff#8])) = some (.reservedOpcode 0xff#8) ∧
    refusalOf (step (withMoves framed [.chain 0x04#8])) = none ∧
    refusalOf (step (withMoves framed [.abandon 0x01#8])) = none := by decide

end Sys2Proof.Tests
end

section
/-! Refinement: the state each admitted command leaves, one equation per outcome (41_xor_cipher.md R61, 42_fnv_hasher.md R72,
43_checksum_framer.md R81, R85), and that the response in it is the one the pure function of 00_scope.md R8 gives. -/

namespace Sys2Proof.Machine

/-! ### The response at the end of a command -/

theorem complete_response (n : Nat) (s : State) :
    (complete n s).response = ⟨some 0#2, some 1#1, some n, Memory.bytes s.out, s.hv⟩ := rfl

/-- Completing with a placed buffer and no HV delivers exactly that buffer. -/
theorem complete_response_ofBytes {bs : List Byte} {n : Nat} {s : State} (hout : s.out = Memory.ofBytes bs)
    (hn : n = bs.length) (hhv : s.hv = none) : (complete n s).response = .ofResult (.ok bs) := by
  rw [complete_response, hout, hhv, hn, Memory.bytes_ofBytes, Response.ofResult]

@[simp] theorem raise_response (e : ErrorKind) (s : State) : (raise e s).response = .ofResult (.err e) := by
  cases e <;> rfl

/-! ### XORT -/

theorem Memory.bytes_eq_nil_iff {m : Memory} : Memory.bytes m = [] ↔ Memory.len m = 0 :=
  List.length_eq_zero_iff.symm

theorem exec_xort_of_empty_key {s : State} (h : admitted .xort s = true) (hk : Memory.bytes s.key = []) :
    exec .xort s = .next (raise .invalidKey (latch .xort s)) := by
  rw [exec, execXort, command_of_admitted h, xortBody, if_pos]
  simpa [keyIsOperand] using Memory.bytes_eq_nil_iff.1 hk

theorem exec_xort_of_key {s : State} (h : admitted .xort s = true) (hk : Memory.bytes s.key ≠ []) :
    exec .xort s = .next (complete (Memory.len s.data) { latch .xort s with
      out := Memory.ofBytes (xorBytes (Memory.bytes s.data) (Memory.bytes s.key))
      idx := Memory.len s.data
      kidx := Memory.len s.data % Memory.len s.key }) := by
  have hlen : Memory.len s.key ≠ 0 := mt Memory.bytes_eq_nil_iff.2 hk
  have hklen : (latch .xort s).klen = Memory.len s.key := rfl
  rw [exec, execXort, command_of_admitted h, xortBody, if_neg (by rwa [hklen]),
    xorLoop_spec _ _ [] (Nat.pos_of_ne_zero hlen) rfl (Nat.zero_mod _).symm (by simp) rfl rfl]
  simp [keyIsOperand, Memory.len, xorBytes]

/-! ### FNVD -/

theorem exec_fnvd {s : State} (h : admitted .fnvd s = true) :
    exec .fnvd s = .next (complete 0 { latch .fnvd s with
      acc := fnv1a32 (Memory.bytes s.data)
      idx := Memory.len s.data
      hv := some (fnv1a32 (Memory.bytes s.data)) }) := by
  rw [exec, execFnvd, command_of_admitted h, fnvdBody, hashBytes_spec (Nat.zero_le _) (by simp)]
  simp [Memory.len]

/-! ### FRAME -/

theorem exec_frame {s : State} (h : admitted .frame s = true) :
    exec .frame s = .next (complete (Memory.len s.data + trailerLen) { latch .frame s with
      out := Memory.ofBytes (frame (Memory.bytes s.data))
      acc := fnv1a32 (Memory.bytes s.data)
      idx := Memory.len s.data }) := by
  rw [exec, execFrame, command_of_admitted h, frameBody, hashBytes_spec (Nat.zero_le _) (by simp), andThen_next,
    copyBytes_spec (by simp) rfl, andThen_next, writeTrailer_spec rfl (by simp [Memory.len])]
  simp [Memory.len, frame]

/-! ### UNFRM -/

theorem exec_unfrm_of_short {s : State} (h : admitted .unfrm s = true) (hs : Memory.len s.data < trailerLen) :
    exec .unfrm s = .next (raise .tooShort (latch .unfrm s)) := by
  rw [exec, execUnfrm, command_of_admitted h, unfrmBody, if_pos (by simpa using hs)]

/-- UNFRM as the comparison of R86 meets it: the payload hashed into ACC, the trailer rebuilt in SH. -/
def unfrmCompared (s : State) : State :=
  { latch .unfrm s with
    acc := fnv1a32 (payloadOf (Memory.bytes s.data))
    sh := storedHash (Memory.bytes s.data)
    idx := Memory.len s.data - trailerLen }

/-- A buffer that is long enough reaches the comparison without a fault (R85, R87). -/
theorem exec_unfrm_of_long {s : State} (h : admitted .unfrm s = true) (hl : trailerLen ≤ Memory.len s.data) :
    exec .unfrm s = unfrmVerdict (unfrmCompared s) := by
  rw [exec, execUnfrm, command_of_admitted h, unfrmBody, if_neg (by simpa using hl),
    hashBytes_spec (Nat.zero_le _) (by simp), andThen_next, loadStoredHash_spec (by exact hl) rfl]
  rfl

theorem exec_unfrm_of_mismatch {s : State} (h : admitted .unfrm s = true) (hl : trailerLen ≤ Memory.len s.data)
    (hm : fnv1a32 (payloadOf (Memory.bytes s.data)) ≠ storedHash (Memory.bytes s.data)) :
    exec .unfrm s = .next (raise .checksumMismatch (unfrmCompared s)) := by
  rw [exec_unfrm_of_long h hl, unfrmVerdict, if_pos (show (unfrmCompared s).acc ≠ (unfrmCompared s).sh from hm)]

theorem exec_unfrm_of_match {s : State} (h : admitted .unfrm s = true) (hl : trailerLen ≤ Memory.len s.data)
    (hm : fnv1a32 (payloadOf (Memory.bytes s.data)) = storedHash (Memory.bytes s.data)) :
    exec .unfrm s = .next (complete (Memory.len s.data - trailerLen) { unfrmCompared s with
      out := Memory.ofBytes (payloadOf (Memory.bytes s.data)) }) := by
  rw [exec_unfrm_of_long h hl, unfrmVerdict,
    if_neg (show ¬ (unfrmCompared s).acc ≠ (unfrmCompared s).sh from not_not.2 hm),
    copyBytes_spec (by exact Nat.sub_le _ _) rfl]
  rfl

/-! ### The commands against the functions -/

theorem xort_refines_xorTransform {s : State} (h : admitted .xort s = true) :
    ∃ t, exec .xort s = .next t ∧ t.response = .ofResult (xorTransform (Memory.bytes s.data) (Memory.bytes s.key)) := by
  by_cases hk : Memory.bytes s.key = []
  · exact ⟨_, exec_xort_of_empty_key h hk, by simp [xorTransform, hk]⟩
  · refine ⟨_, exec_xort_of_key h hk, ?_⟩
    rw [xorTransform, if_neg hk]
    exact complete_response_ofBytes rfl (by simp [Memory.len]) rfl

theorem fnvd_refines_fnv1a32 {s : State} (h : admitted .fnvd s = true) :
    ∃ t, exec .fnvd s = .next t ∧ t.response = .ofDigest (fnv1a32 (Memory.bytes s.data)) :=
  ⟨_, exec_fnvd h, complete_response _ _⟩

theorem frame_refines_frame {s : State} (h : admitted .frame s = true) :
    ∃ t, exec .frame s = .next t ∧ t.response = .ofResult (.ok (frame (Memory.bytes s.data))) :=
  ⟨_, exec_frame h, complete_response_ofBytes rfl (by simp [Memory.len, trailerLen]) rfl⟩

theorem unfrm_refines_unframe {s : State} (h : admitted .unfrm s = true) :
    ∃ t, exec .unfrm s = .next t ∧ t.response = .ofResult (unframe (Memory.bytes s.data)) := by
  rw [unframe, ← Memory.len]
  by_cases hs : Memory.len s.data < trailerLen
  · exact ⟨_, exec_unfrm_of_short h hs, by rw [raise_response, if_pos hs]⟩
  have hl : trailerLen ≤ Memory.len s.data := Nat.le_of_not_lt hs
  rw [if_neg hs]
  by_cases hm : fnv1a32 (payloadOf (Memory.bytes s.data)) = storedHash (Memory.bytes s.data)
  · refine ⟨_, exec_unfrm_of_match h hl hm, ?_⟩
    rw [if_neg (not_not.2 hm)]
    exact complete_response_ofBytes rfl (by simp [payloadOf, Memory.len]) rfl
  · exact ⟨_, exec_unfrm_of_mismatch h hl hm, by rw [raise_response, if_pos hm]⟩

/-- Settles O30: command by command, from the state each outcome leaves. -/
theorem commandsRefineTheFunctions : Obligations.CommandsRefineTheFunctions := by
  intro i s h
  cases i with
  | xort => exact xort_refines_xorTransform h
  | fnvd => exact fnvd_refines_fnv1a32 h
  | frame => exact frame_refines_frame h
  | unfrm => exact unfrm_refines_unframe h

end Sys2Proof.Machine
end

section
/-! The state a completed command leaves, for all four commands at once: the latched registers, the working registers its passes
leave, and the response its function gives (10_state.md R13 to R22). -/

namespace Sys2Proof.Machine

/-! ### The working registers after a command -/

/-- IDX after a command: the length of its pass, and as it was where an error comes before any pass (R14, R61, R85). -/
def idxAfter (i : Instr) (s : State) : Nat :=
  match i with
  | .xort => if Memory.bytes s.key = [] then s.idx else Memory.len s.data
  | .fnvd => Memory.len s.data
  | .frame => Memory.len s.data
  | .unfrm => if Memory.len s.data < trailerLen then s.idx else Memory.len s.data - trailerLen

/-- KIDX after a command: only an XORT with a key counts in it (R15, R61). -/
def kidxAfter (i : Instr) (s : State) : Nat :=
  match i with
  | .xort => if Memory.bytes s.key = [] then s.kidx else Memory.len s.data % Memory.len s.key
  | .fnvd => s.kidx
  | .frame => s.kidx
  | .unfrm => s.kidx

/-- ACC after a command: the digest of what it hashed (R13). -/
def accAfter (i : Instr) (s : State) : Word :=
  match i with
  | .xort => s.acc
  | .fnvd => fnv1a32 (Memory.bytes s.data)
  | .frame => fnv1a32 (Memory.bytes s.data)
  | .unfrm => if Memory.len s.data < trailerLen then s.acc else fnv1a32 (payloadOf (Memory.bytes s.data))

/-- SH after a command: only an UNFRM that is long enough loads it (R16). -/
def shAfter (i : Instr) (s : State) : Word :=
  match i with
  | .xort => s.sh
  | .fnvd => s.sh
  | .frame => s.sh
  | .unfrm => if Memory.len s.data < trailerLen then s.sh else storedHash (Memory.bytes s.data)

/-- The response of a command on the operands a state holds. -/
def State.responseTo (s : State) (i : Instr) : Response :=
  responseOf i (Memory.bytes s.data) (Memory.bytes s.key)

/-- The state a completed command leaves. -/
def afterCommand (i : Instr) (s : State) : State :=
  { s with
    op := opcode i
    dlen := Memory.len s.data
    klen := if keyIsOperand i then Memory.len s.key else s.klen
    idx := idxAfter i s
    kidx := kidxAfter i s
    acc := accAfter i s
    sh := shAfter i s
    st := (s.responseTo i).st
    okf := (s.responseTo i).okf
    olen := (s.responseTo i).olen
    hv := (s.responseTo i).hv
    out := Memory.ofBytes (s.responseTo i).out }

@[simp] theorem afterCommand_response (i : Instr) (s : State) : (afterCommand i s).response = s.responseTo i := by
  simp [State.response, afterCommand]

/-! ### The commands leave that state -/

@[simp] theorem payloadOf_length (f : List Byte) : (payloadOf f).length = f.length - trailerLen := by
  simp [payloadOf]

theorem exec_xort_of_admitted {s : State} (h : admitted .xort s = true) : exec .xort s = .next (afterCommand .xort s) := by
  have hr : s.responseTo .xort = .ofResult (xorTransform (Memory.bytes s.data) (Memory.bytes s.key)) := rfl
  rw [xorTransform] at hr
  by_cases hk : Memory.bytes s.key = []
  · rw [if_pos hk] at hr
    rw [exec_xort_of_empty_key h hk]
    simp only [afterCommand, hr, idxAfter, kidxAfter, if_pos hk]
    rfl
  · rw [if_neg hk] at hr
    rw [exec_xort_of_key h hk]
    simp only [afterCommand, hr, idxAfter, kidxAfter, if_neg hk, Response.ofResult, xorBytes_length]
    rfl

theorem exec_unfrm_of_admitted {s : State} (h : admitted .unfrm s = true) : exec .unfrm s = .next (afterCommand .unfrm s) := by
  have hr : s.responseTo .unfrm = .ofResult (unframe (Memory.bytes s.data)) := rfl
  rw [unframe, ← Memory.len] at hr
  by_cases hs : Memory.len s.data < trailerLen
  · rw [if_pos hs] at hr
    rw [exec_unfrm_of_short h hs]
    simp only [afterCommand, hr, idxAfter, accAfter, shAfter, if_pos hs]
    rfl
  have hl : trailerLen ≤ Memory.len s.data := Nat.le_of_not_lt hs
  rw [if_neg hs] at hr
  by_cases hm : fnv1a32 (payloadOf (Memory.bytes s.data)) = storedHash (Memory.bytes s.data)
  · rw [if_neg (not_not.2 hm)] at hr
    rw [exec_unfrm_of_match h hl hm]
    simp only [afterCommand, hr, idxAfter, accAfter, shAfter, if_neg hs, Response.ofResult, payloadOf_length]
    rfl
  · rw [if_pos hm] at hr
    rw [exec_unfrm_of_mismatch h hl hm]
    simp only [afterCommand, hr, idxAfter, accAfter, shAfter, if_neg hs]
    rfl

theorem exec_frame_of_admitted {s : State} (h : admitted .frame s = true) : exec .frame s = .next (afterCommand .frame s) := by
  have hr : s.responseTo .frame = .ofResult (.ok (frame (Memory.bytes s.data))) := rfl
  rw [exec_frame h]
  simp only [afterCommand, hr, Response.ofResult, frame_length]
  rfl

/-- Every admitted command completes, and this is all it leaves. -/
theorem exec_of_admitted {i : Instr} {s : State} (h : admitted i s = true) : exec i s = .next (afterCommand i s) := by
  cases i with
  | xort => exact exec_xort_of_admitted h
  | fnvd => exact exec_fnvd h
  | frame => exact exec_frame_of_admitted h
  | unfrm => exact exec_unfrm_of_admitted h

theorem exec_eq_next {i : Instr} {s t : State} :
    exec i s = .next t ↔ admitted i s = true ∧ t = afterCommand i s := by
  cases h : admitted i s with
  | false => simp [exec_of_not_admitted h]
  | true => simp [exec_of_admitted h, eq_comm]

/-! ### The shape of a response -/

/-- A response that was delivered: ST and OKF go together (R19), OLEN is the length of OUT (R21), an error has no output and no HV
(60_exceptions.md R112), and HV stands only beside an empty OUT (R21, R22). -/
def Response.Delivered (r : Response) : Prop :=
  ∃ c, r.st = some c ∧ r.okf = some (if c = 0#2 then 1#1 else 0#1) ∧ r.olen = some r.out.length ∧
    (c ≠ 0#2 → r.out = [] ∧ r.hv = none) ∧ (r.hv ≠ none → r.out = [])

theorem ErrorKind.code_ne_ok (e : ErrorKind) : e.code ≠ 0#2 := by
  cases e <;> decide

theorem Response.ofResult_delivered (r : Result) : (Response.ofResult r).Delivered := by
  cases r with
  | ok bs => exact ⟨0#2, rfl, rfl, rfl, fun h => absurd rfl h, fun h => absurd rfl h⟩
  | err e => exact ⟨e.code, rfl, by rw [if_neg e.code_ne_ok]; rfl, rfl, fun _ => ⟨rfl, rfl⟩, fun _ => rfl⟩

theorem Response.ofDigest_delivered (h : Word) : (Response.ofDigest h).Delivered :=
  ⟨0#2, rfl, rfl, rfl, fun h => absurd rfl h, fun _ => rfl⟩

theorem State.responseTo_delivered (i : Instr) (s : State) : (s.responseTo i).Delivered := by
  cases i with
  | xort => exact Response.ofResult_delivered _
  | fnvd => exact Response.ofDigest_delivered _
  | frame => exact Response.ofResult_delivered _
  | unfrm => exact Response.ofResult_delivered _

@[simp] theorem Response.ofResult_hv (r : Result) : (Response.ofResult r).hv = none := by
  cases r <;> rfl

theorem State.responseTo_hv {i : Instr} (h : i ≠ .fnvd) (s : State) : (s.responseTo i).hv = none := by
  cases i with
  | fnvd => exact absurd rfl h
  | xort => exact Response.ofResult_hv _
  | frame => exact Response.ofResult_hv _
  | unfrm => exact Response.ofResult_hv _

/-- The bytes a command delivers when it succeeds (R21). -/
def bytesOnSuccess (i : Instr) (d k : List Byte) : List Byte :=
  match i with
  | .xort => xorBytes d k
  | .fnvd => []
  | .frame => frame d
  | .unfrm => payloadOf d

theorem Response.ofResult_out_of_ok {r : Result} {bs : List Byte} (hbs : ∀ cs, r = .ok cs → cs = bs)
    (h : (Response.ofResult r).st = some 0#2) : (Response.ofResult r).out = bs := by
  cases r with
  | ok cs => exact hbs cs rfl
  | err e => exact absurd (Option.some.inj h) e.code_ne_ok

theorem eq_of_xorTransform_eq_ok {d k o : List Byte} (h : xorTransform d k = .ok o) : o = xorBytes d k := by
  unfold xorTransform at h
  split_ifs at h
  exact (Result.ok.inj h).symm

theorem eq_of_unframe_eq_ok {f p : List Byte} (h : unframe f = .ok p) : p = payloadOf f := by
  unfold unframe at h
  split_ifs at h
  exact (Result.ok.inj h).symm

theorem State.responseTo_out_of_ok {i : Instr} {s : State} (h : (s.responseTo i).st = some 0#2) :
    (s.responseTo i).out = bytesOnSuccess i (Memory.bytes s.data) (Memory.bytes s.key) := by
  cases i with
  | xort => exact Response.ofResult_out_of_ok (fun _ => eq_of_xorTransform_eq_ok) h
  | fnvd => rfl
  | frame => rfl
  | unfrm => exact Response.ofResult_out_of_ok (fun _ => eq_of_unframe_eq_ok) h

end Sys2Proof.Machine
end

section
/-! The obligations on the state that a command reads and leaves (10_state.md R10 to R22). -/

namespace Sys2Proof.Machine

/-! ### Statelessness (R10) -/

/-- Settles O29: both responses are the one the opcode and the operands give. -/
theorem responseDependsOnOperandsAlone : Obligations.ResponseDependsOnOperandsAlone := by
  intro i s s' h h' hd hk
  refine ⟨_, _, exec_of_admitted h, exec_of_admitted h', ?_⟩
  rw [afterCommand_response, afterCommand_response, State.responseTo, State.responseTo, hd]
  cases i with
  | xort => rw [hk rfl]
  | fnvd => rfl
  | frame => rfl
  | unfrm => rfl

/-! ### The working registers (R13 to R18) -/

theorem afterCommand_unfrm_acc_irrelevant {s : State} (hl : trailerLen ≤ Memory.len s.data) (a : Word) :
    afterCommand .unfrm { s with acc := a } = afterCommand .unfrm s := by
  simp only [afterCommand, accAfter, if_neg (Nat.not_lt.2 hl)]
  rfl

/-- Settles O36: the digest is computed from the operands alone, and XORT carries ACC through. -/
theorem accumulatorStartsFresh : Obligations.AccumulatorStartsFresh := by
  refine ⟨fun i s hi h => ⟨afterCommand i s, ?_⟩, fun s h hl => ⟨afterCommand .unfrm s, ?_, fun a => ?_⟩,
    fun s h => ⟨afterCommand .xort s, fun a => exec_of_admitted (s := { s with acc := a }) h⟩⟩
  · rcases hi with rfl | rfl <;> exact ⟨rfl, fun a => exec_of_admitted (s := { s with acc := a }) h⟩
  · exact if_neg (Nat.not_lt.2 hl)
  · rw [← afterCommand_unfrm_acc_irrelevant hl a]
    exact exec_of_admitted h

/-- Settles O37: the latched registers are those of the state the command leaves, and KLEN is no operand of it but for XORT. -/
theorem issueLatchesOpcodeAndLengths : Obligations.IssueLatchesOpcodeAndLengths := by
  intro i s t ht
  obtain ⟨h, rfl⟩ := exec_eq_next.1 ht
  refine ⟨rfl, rfl, ?_, fun hi n => ?_⟩
  · rintro rfl
    rfl
  · rw [exec_of_admitted (s := { s with klen := n }) h]
    cases i with
    | xort => exact absurd rfl hi
    | fnvd => rfl
    | frame => rfl
    | unfrm => rfl

/-- Settles O26: the pass of each command ends at the end of what it hashes. -/
theorem indexEndsAtThePassLength : Obligations.IndexEndsAtThePassLength := by
  refine ⟨fun i s hi h => ⟨_, exec_of_admitted h, ?_⟩, fun s h hl => ⟨_, exec_of_admitted h, if_neg (Nat.not_lt.2 hl)⟩⟩
  rcases hi with rfl | rfl <;> rfl

/-! ### The key counter of XORT's loop (R15) -/

theorem withData_eq_next {i : Nat} {s t : State} {f : Byte → Host.Outcome State Fault Refusal} :
    withData i s f = .next t ↔ ∃ b, Memory.read s.data i = some b ∧ f b = .next t := by
  unfold withData
  cases Memory.read s.data i <;> simp

theorem withKey_eq_next {j : Nat} {s t : State} {f : Byte → Host.Outcome State Fault Refusal} :
    withKey j s f = .next t ↔ ∃ b, Memory.read s.key j = some b ∧ f b = .next t := by
  unfold withKey
  cases Memory.read s.key j <;> simp

/-- The loop of XORT from any index whose key counter is in step with it. -/
theorem xorLoop_counters {n : Nat} {s t : State} (hk : 0 < s.klen) (hki : s.kidx = s.idx % s.klen)
    (h : xorLoop n s = .next t) : t.idx = s.idx + n ∧ t.kidx = (s.idx + n) % s.klen := by
  induction n generalizing s with
  | zero =>
    cases h
    exact ⟨rfl, hki⟩
  | succ n ih =>
    obtain ⟨d, -, h⟩ := withData_eq_next.1 h
    obtain ⟨k, -, h⟩ := withKey_eq_next.1 h
    have hnext : nextKeyIndex s.klen s.kidx = (s.idx + 1) % s.klen := by rw [hki, nextKeyIndex_mod hk]
    have hrest := ih (s := nextByte (stepKeyIndex (writeOut s.idx (d ^^^ k) s))) hk hnext h
    simpa [show s.idx + 1 + n = s.idx + (n + 1) by omega] using hrest

/-- Settles O9: the loop from IDX = KIDX = 0. -/
theorem keyCounterIsIndexModLength : Obligations.KeyCounterIsIndexModLength := by
  intro n s t hk hi hki h
  simpa [hi] using xorLoop_counters hk (by rw [hki, hi, Nat.zero_mod]) h

/-! ### The response registers (R19 to R22) -/

/-- Settles O39: OKF is that of a delivered response, which the operands alone give. -/
theorem okFlagFollowsStatus : Obligations.OkFlagFollowsStatus := by
  intro i s t ht
  obtain ⟨h, rfl⟩ := exec_eq_next.1 ht
  obtain ⟨c, hst, hokf, -⟩ := s.responseTo_delivered i
  refine ⟨⟨c, hst, hokf⟩, ?_, fun v => ?_⟩
  · rintro (rfl | rfl) <;> rfl
  · rw [exec_of_admitted (s := { s with okf := v }) h]
    cases i with
    | xort => rfl
    | fnvd => rfl
    | frame => rfl
    | unfrm => rfl

/-- Settles O40: OUT holds the bytes of a delivered response, and on success those are the function's. -/
theorem outputLengths : Obligations.OutputLengths := by
  intro i s t ht
  obtain ⟨-, rfl⟩ := exec_eq_next.1 ht
  obtain ⟨c, hst, -, holen, herr, -⟩ := s.responseTo_delivered i
  have hst' : (afterCommand i s).st = some c := hst
  have holen' : (afterCommand i s).olen = some (s.responseTo i).out.length := holen
  have hout : (afterCommand i s).out = Memory.ofBytes (s.responseTo i).out := rfl
  refine ⟨by rw [holen', hout, Memory.len_ofBytes], fun hok => ?_, fun hok => ?_, fun hne => ?_⟩
  · rw [holen', State.responseTo_out_of_ok hok]
    cases i with
    | xort => exact congrArg some (xorBytes_length _ _)
    | fnvd => rfl
    | frame => exact congrArg some (frame_length _)
    | unfrm => exact congrArg some (payloadOf_length _)
  · rw [hout, Memory.bytes_ofBytes, State.responseTo_out_of_ok hok]
    cases i <;> rfl
  · obtain ⟨hnil, -⟩ := herr fun hc => hne (hst'.trans (congrArg some hc))
    rw [holen', hout, hnil]
    exact ⟨rfl, rfl⟩

/-- Settles O41: FNVD's response carries the digest that stands in ACC, and no other command's carries any. -/
theorem hashValueOnlyAfterFnvd : Obligations.HashValueOnlyAfterFnvd := by
  intro i s t ht
  obtain ⟨-, rfl⟩ := exec_eq_next.1 ht
  refine ⟨?_, fun hi => State.responseTo_hv hi s⟩
  rintro rfl
  exact ⟨rfl, rfl⟩

end Sys2Proof.Machine
end

section
/-! The invariant of 10_state.md R12 to R26: every update of the state keeps it, so every command and every move of the host
does. -/

namespace Sys2Proof.Machine

/-! ### The updates that keep the invariant -/

theorem State.Inv.putData {s : State} (h : s.Inv) {m : Memory} (hm : Memory.dense m = true) :
    State.Inv { s with data := m } :=
  { h with dataDense := hm }

theorem State.Inv.putKey {s : State} (h : s.Inv) {m : Memory} (hm : Memory.dense m = true) :
    State.Inv { s with key := m } :=
  { h with keyDense := hm }

theorem State.Inv.deliver {s : State} (h : s.Inv) (v : Seen) : State.Inv (deliver v s) :=
  { h with }

theorem State.Inv.takeMove {s : State} (h : s.Inv) (rest : List HostMove) : State.Inv { s with host := rest } :=
  { h with }

theorem State.Inv.resetBlock {s : State} (h : s.Inv) : State.Inv (resetBlock s) where
  dataDense := h.dataDense
  keyDense := h.keyDense
  outDense := Memory.dense_nil
  response := .inl ⟨rfl, rfl, rfl, rfl, rfl⟩
  dlenFits := fits_clip _ _
  klenFits := fits_clip _ _
  idxFits := fits_clip _ _
  kidxFits := fits_clip _ _
  olenFits := fun n hn => by cases hn

/-! ### A command keeps the invariant -/

theorem fits_len_data_of_admitted {i : Instr} {s : State} (h : admitted i s = true) :
    fits s.cfg (Memory.len s.data) = true := by
  unfold admitted at h
  exact (Bool.and_eq_true_iff.1 h).1

theorem fits_klen_afterCommand {i : Instr} {s : State} (h : admitted i s = true) (hk : fits s.cfg s.klen = true) :
    fits s.cfg (afterCommand i s).klen = true := by
  cases i with
  | xort => exact ((admitted_xort s).1 h).2
  | fnvd => exact hk
  | frame => exact hk
  | unfrm => exact hk

theorem fits_idxAfter {i : Instr} {s : State} (h : admitted i s = true) (hidx : fits s.cfg s.idx = true) :
    fits s.cfg (idxAfter i s) = true := by
  have hd := fits_len_data_of_admitted h
  cases i with
  | xort =>
    simp only [idxAfter]
    split_ifs
    · exact hidx
    · exact hd
  | fnvd => exact hd
  | frame => exact hd
  | unfrm =>
    simp only [idxAfter]
    split_ifs
    · exact hidx
    · exact fits_mono hd (Nat.sub_le _ _)

theorem fits_kidxAfter {i : Instr} {s : State} (h : admitted i s = true) (hkidx : fits s.cfg s.kidx = true) :
    fits s.cfg (kidxAfter i s) = true := by
  cases i with
  | xort =>
    simp only [kidxAfter]
    split_ifs with hk
    · exact hkidx
    · have hpos : 0 < Memory.len s.key := Nat.pos_of_ne_zero (mt Memory.bytes_eq_nil_iff.2 hk)
      exact fits_mono ((admitted_xort s).1 h).2 (Nat.mod_lt _ hpos).le
  | fnvd => exact hkidx
  | frame => exact hkidx
  | unfrm => exact hkidx

/-- What a command delivers on success is no longer than the lengths it was admitted for (30_encoding.md R53). -/
theorem fits_bytesOnSuccess {i : Instr} {s : State} (h : admitted i s = true) :
    fits s.cfg (bytesOnSuccess i (Memory.bytes s.data) (Memory.bytes s.key)).length = true := by
  have hd := fits_len_data_of_admitted h
  cases i with
  | xort =>
    rw [bytesOnSuccess, xorBytes_length]
    exact hd
  | fnvd => exact fits_zero _
  | frame =>
    rw [bytesOnSuccess, frame_length]
    exact ((admitted_frame s).1 h).2
  | unfrm =>
    rw [bytesOnSuccess, payloadOf_length]
    exact fits_mono hd (Nat.sub_le _ _)

theorem fits_olen_afterCommand {i : Instr} {s : State} (h : admitted i s = true) {n : Nat}
    (hn : (afterCommand i s).olen = some n) : fits s.cfg n = true := by
  obtain ⟨c, hst, -, holen, herr, -⟩ := s.responseTo_delivered i
  obtain rfl : (s.responseTo i).out.length = n := Option.some.inj (holen.symm.trans hn)
  by_cases hc : c = 0#2
  · rw [State.responseTo_out_of_ok (hc ▸ hst)]
    exact fits_bytesOnSuccess h
  · rw [(herr hc).1]
    exact fits_zero _

theorem responseConsistent_afterCommand (i : Instr) (s : State) : responseConsistent (afterCommand i s) := by
  obtain ⟨c, hst, hokf, holen, herr, hhv⟩ := s.responseTo_delivered i
  refine .inr ⟨c, _, hst, hokf, holen, Memory.len_ofBytes _, fun hc => ?_, fun h => ?_⟩
  · obtain ⟨hout, hnone⟩ := herr hc
    exact ⟨List.length_eq_zero_iff.2 hout, hnone⟩
  · exact List.length_eq_zero_iff.2 (hhv h)

theorem exec_keeps_inv {i : Instr} {s t : State} (hs : s.Inv) (ht : exec i s = .next t) : t.Inv := by
  obtain ⟨h, rfl⟩ := exec_eq_next.1 ht
  exact
    { dataDense := hs.dataDense
      keyDense := hs.keyDense
      outDense := Memory.dense_ofBytes _
      response := responseConsistent_afterCommand i s
      dlenFits := fits_len_data_of_admitted h
      klenFits := fits_klen_afterCommand h hs.klenFits
      idxFits := fits_idxAfter h hs.idxFits
      kidxFits := fits_kidxAfter h hs.kidxFits
      olenFits := fun _ => fits_olen_afterCommand h }

/-! ### Every move of the host keeps the invariant -/

theorem issue_keeps_inv {op : Byte} {s t : State} (hs : s.Inv) (ht : issue op s = .next t) : t.Inv := by
  obtain ⟨i, -, hx⟩ := issue_eq_next.1 ht
  exact exec_keeps_inv hs hx

theorem hostMove_keeps_inv {m : HostMove} {s t : State} (hs : s.Inv) (ht : hostMove m s = .next t) : t.Inv := by
  cases m with
  | putData bs =>
    cases ht
    exact hs.putData (Memory.dense_ofBytes bs)
  | putKey bs =>
    cases ht
    exact hs.putKey (Memory.dense_ofBytes bs)
  | passOut =>
    obtain ⟨-, rfl⟩ := handOver_eq_next.1 ht
    exact hs.putData hs.outDense
  | issue op => exact issue_keeps_inv hs ht
  | chain op =>
    obtain ⟨-, -, hi⟩ | ⟨c, -, -, rfl⟩ := chainCommand_eq_next.1 ht
    · exact issue_keeps_inv (hs.putData hs.outDense) hi
    · exact hs
  | abandon op =>
    obtain ⟨i, -, -, rfl⟩ := abandonCommand_eq_next.1 ht
    exact hs.resetBlock
  | reset =>
    cases ht
    exact hs.resetBlock
  | readSt | readOkf | readOlen | readHv =>
    obtain ⟨v, -, rfl⟩ := readRegister_eq_next.1 ht
    exact hs.deliver _
  | readOut a =>
    obtain ⟨n, b, -, -, -, rfl⟩ := readOutByte_eq_next.1 ht
    exact hs.deliver _

/-- What a step that answers a next state did: nothing, or the host's next move. -/
theorem step_cases {s t : State} (ht : step s = .next t) :
    (s.host = [] ∧ t = s) ∨ ∃ m rest, s.host = m :: rest ∧ hostMove m { s with host := rest } = .next t := by
  cases hh : s.host with
  | nil =>
    rw [step_of_idle hh] at ht
    cases ht
    exact .inl ⟨rfl, rfl⟩
  | cons m rest =>
    rw [step_of_move hh] at ht
    exact .inr ⟨m, rest, rfl, ht⟩

/-- Settles O57: an idle step changes nothing, and every move of the host keeps the invariant. -/
theorem stepKeepsTheInvariant : Obligations.StepKeepsTheInvariant := by
  intro s t hs ht
  obtain ⟨-, rfl⟩ | ⟨m, rest, -, hm⟩ := step_cases ht
  · exact hs
  · exact hostMove_keeps_inv (hs.takeMove rest) hm

end Sys2Proof.Machine
end

section
/-! What a move of the host reads, and what it leaves as it was (10_state.md R11, R12, R25, R26). -/

namespace Sys2Proof.Machine

/-! ### Only commands and reset change the block (R11, R12) -/

/-- The moves that issue a command or reset the block; every other only places operands or reads. -/
def HostMove.changesBlock : HostMove → Bool
  | .issue _ | .chain _ | .abandon _ | .reset => true
  | _ => false

/-- A move that neither issues a command nor resets touches the operands and the host's record alone. -/
theorem hostMove_of_not_changesBlock {m : HostMove} {s t : State} (hm : m.changesBlock = false)
    (ht : hostMove m s = .next t) : t = { s with data := t.data, key := t.key, seen := t.seen } := by
  cases m with
  | putData bs | putKey bs =>
    cases ht
    rfl
  | passOut =>
    obtain ⟨-, rfl⟩ := handOver_eq_next.1 ht
    rfl
  | issue op | chain op | abandon op | reset => cases hm
  | readSt | readOkf | readOlen | readHv =>
    obtain ⟨v, -, rfl⟩ := readRegister_eq_next.1 ht
    rfl
  | readOut a =>
    obtain ⟨n, b, -, -, -, rfl⟩ := readOutByte_eq_next.1 ht
    rfl

theorem issue_cfg {op : Byte} {s t : State} (ht : issue op s = .next t) : t.cfg = s.cfg := by
  obtain ⟨i, -, hx⟩ := issue_eq_next.1 ht
  obtain ⟨-, rfl⟩ := exec_eq_next.1 hx
  rfl

theorem hostMove_cfg {m : HostMove} {s t : State} (ht : hostMove m s = .next t) : t.cfg = s.cfg := by
  cases hm : m.changesBlock with
  | false => rw [hostMove_of_not_changesBlock hm ht]
  | true =>
    cases m with
    | issue op => exact issue_cfg ht
    | chain op =>
      obtain ⟨-, -, hi⟩ | ⟨c, -, -, rfl⟩ := chainCommand_eq_next.1 ht
      · exact issue_cfg (s := { s with data := s.out }) hi
      · rfl
    | abandon op =>
      obtain ⟨i, -, -, rfl⟩ := abandonCommand_eq_next.1 ht
      rfl
    | reset =>
      cases ht
      rfl
    | _ => cases hm

/-- Settles O48: the next move of the host is one that leaves the block alone, or there is none. -/
theorem onlyCommandsAndResetChangeTheBlock : Obligations.OnlyCommandsAndResetChangeTheBlock := by
  intro s t ht
  obtain ⟨hh, rfl⟩ | ⟨m, rest, hh, hm⟩ := step_cases ht
  · exact ⟨rfl, fun _ _ => by rw [hh, List.tail_nil, ← hh]⟩
  · refine ⟨hostMove_cfg (s := { s with host := rest }) hm, fun hcmd hreset => ?_⟩
    have hquiet : m.changesBlock = false := by
      cases m with
      | issue op => exact absurd hh (hcmd op rest).1
      | chain op => exact absurd hh (hcmd op rest).2.1
      | abandon op => exact absurd hh (hcmd op rest).2.2
      | reset => exact absurd hh (hreset rest)
      | _ => rfl
    rw [hh, List.tail_cons]
    exact hostMove_of_not_changesBlock hquiet hm

/-! ### Reads of the response (R26) -/

theorem readRegister_faults_or_answers {α : Type} (r : RespReg) (value : Option α) (wrap : α → Seen) (s : State) :
    (value = none → readRegister r value wrap s = .fault (.noValue r)) ∧
    (value ≠ none → ∃ t, readRegister r value wrap s = .next t) := by
  cases value with
  | none => exact ⟨fun _ => rfl, fun h => (h rfl).elim⟩
  | some v => exact ⟨fun h => (by cases h), fun _ => ⟨_, rfl⟩⟩

theorem readOutByte_of_no_value {s : State} (h : s.olen = none) (a : Nat) : readOutByte a s = .fault (.noValue .out) := by
  rw [readOutByte, h]

theorem readOutByte_of_le {s : State} {n a : Nat} (h : s.olen = some n) (ha : n ≤ a) :
    readOutByte a s = .fault (.noSuchByte .out a) := by
  simp [readOutByte, h, Nat.not_lt.2 ha]

theorem step_readOut (s : State) (a : Nat) (rest : List HostMove) :
    step { s with host := .readOut a :: rest } = readOutByte a { s with host := rest } := rfl

/-- After a command the host can read exactly the bytes of OUT below OLEN (R21, R26). -/
theorem afterCommand_read_out (i : Instr) (s : State) : ∃ n, (afterCommand i s).olen = some n ∧
    ∀ (a : Nat) (rest : List HostMove),
      (a < n → ∃ u, step { afterCommand i s with host := .readOut a :: rest } = .next u) ∧
      (n ≤ a → step { afterCommand i s with host := .readOut a :: rest } = .fault (.noSuchByte .out a)) := by
  obtain ⟨c, -, -, holen, -⟩ := s.responseTo_delivered i
  refine ⟨_, holen, fun a rest => ⟨fun ha => ?_, fun ha => ?_⟩⟩
  · have hread : Memory.read (afterCommand i s).out a = some ((s.responseTo i).out[a]) :=
      (Memory.read_ofBytes _ a).trans (List.getElem?_eq_getElem ha)
    rw [step_readOut]
    exact ⟨_, readOutByte_eq_next.2 ⟨_, _, holen, ha, hread, rfl⟩⟩
  · rw [step_readOut]
    exact readOutByte_of_le (s := { afterCommand i s with host := rest }) holen ha

/-! ### No value without a command (R26) -/

theorem resetBlock_response (s : State) : (resetBlock s).response = .noValue := rfl

theorem response_of_not_changesBlock {m : HostMove} {s t : State} (hm : m.changesBlock = false)
    (ht : hostMove m s = .next t) : t.response = s.response := by
  rw [hostMove_of_not_changesBlock hm ht]
  rfl

/-- A move that does not issue gives no response a value: a path's second command needs ST (44_composed_paths.md R101). -/
theorem hostMove_keeps_noValue {m : HostMove} {s t : State} (hs : s.response = .noValue) (hm : ∀ op, m ≠ .issue op)
    (ht : hostMove m s = .next t) : t.response = .noValue := by
  cases m with
  | issue op => exact absurd rfl (hm op)
  | chain op =>
    have hst : s.st = none := congrArg Response.st hs
    obtain ⟨h, -⟩ | ⟨c, h, -⟩ := chainCommand_eq_next.1 ht
    · cases hst.symm.trans h
    · cases hst.symm.trans h
  | abandon op =>
    obtain ⟨i, -, -, rfl⟩ := abandonCommand_eq_next.1 ht
    exact resetBlock_response s
  | reset =>
    cases ht
    exact resetBlock_response s
  | _ => exact (response_of_not_changesBlock rfl ht).trans hs

theorem step_keeps_noValue {s t : State} (hs : s.response = .noValue) (hi : ∀ op rest, s.host ≠ .issue op :: rest)
    (ht : step s = .next t) : t.response = .noValue := by
  obtain ⟨-, rfl⟩ | ⟨m, rest, hh, hm⟩ := step_cases ht
  · exact hs
  · exact hostMove_keeps_noValue (s := { s with host := rest }) hs (fun op h => hi op rest (h ▸ hh)) hm

/-- Settles O43: a read is decided by the register's value; a command gives the values, and no other move does. -/
theorem readsNeedAValue : Obligations.ReadsNeedAValue := by
  refine ⟨fun s rest => ?_, fun i s t ht => ?_, rfl, fun s t => step_keeps_noValue⟩
  · refine ⟨fun h => ?_, fun h => ?_, fun h => ?_, fun h => ?_, fun a h ho => ?_⟩ <;> rw [step_of_move h]
    · exact readRegister_faults_or_answers .st s.st .st _
    · exact readRegister_faults_or_answers .okf s.okf .okf _
    · exact readRegister_faults_or_answers .olen s.olen .olen _
    · exact readRegister_faults_or_answers .hv s.hv .hv _
    · exact readOutByte_of_no_value (s := { s with host := rest }) ho a
  · obtain ⟨-, rfl⟩ := exec_eq_next.1 ht
    obtain ⟨c, hst, hokf, -⟩ := s.responseTo_delivered i
    refine ⟨fun h => ?_, fun h => ?_, ?_, fun hi => State.responseTo_hv hi s, afterCommand_read_out i s⟩
    · cases hst.symm.trans h
    · cases hokf.symm.trans h
    · rintro rfl h
      cases h

/-! ### Reset (R23, R25) -/

/-- Settles O54: the fields of State.reset, and the idle step there. -/
theorem resetIsIdleWithNoResponse : Obligations.ResetIsIdleWithNoResponse :=
  ⟨rfl, rfl, rfl, rfl, rfl, step_of_idle rfl, rfl, rfl⟩

end Sys2Proof.Machine
end

section
/-! Several blocks (10_state.md R27, 60_exceptions.md R117): a step of the system is the step of the one block it names. -/

namespace Sys2Proof.Machine

theorem System.step_eq_next {sys sys' : System} {j : Nat} (hj : j < sys.length) :
    System.step j sys = .next sys' ↔ ∃ t, Machine.step sys[j] = .next t ∧ sys' = sys.set j t := by
  simp only [System.step, List.getElem?_eq_getElem hj]
  cases Machine.step sys[j] <;> simp [eq_comm]

/-- What another block did does not change the step of this one. -/
theorem System.step_set_other {sys : System} {j l : Nat} {s t : State} (hjl : j ≠ l) (hl : l < sys.length)
    (ht : Machine.step sys[l] = .next t) : System.step l (sys.set j s) = .next ((sys.set j s).set l t) := by
  refine (System.step_eq_next (by simpa using hl)).2 ⟨t, ?_, rfl⟩
  rw [List.getElem_set_ne hjl]
  exact ht

/-- Settles O59: replacing one element of the list leaves the others, and two such replacements commute. -/
theorem instancesShareNothing : Obligations.InstancesShareNothing := by
  constructor
  · intro sys j s t hs ht
    obtain ⟨hj, rfl⟩ := List.getElem?_eq_some_iff.1 hs
    exact ⟨_, (System.step_eq_next hj).2 ⟨t, ht, rfl⟩, List.getElem?_set_self hj,
      fun l hl => List.getElem?_set_ne hl.symm⟩
  · intro sys a b j l hjl hj hl ha hb
    obtain ⟨s, hs, rfl⟩ := (System.step_eq_next hj).1 ha
    obtain ⟨t, ht, rfl⟩ := (System.step_eq_next hl).1 hb
    refine ⟨_, System.step_set_other hjl hl ht, ?_⟩
    rw [System.step_set_other hjl.symm hj hs, List.set_comm _ _ hjl]

end Sys2Proof.Machine
end

section
/-! The obligations on the three byte spaces (20_memory.md R30, R31, R33, R40): their canonical form, what a command reads and
writes, and the host's moves that place operands and issue commands. -/

namespace Sys2Proof.Machine

/-! ### The canonical form -/

/-- Each of the three byte spaces is in canonical form (notes/assumptions 7). -/
structure State.Canonical (s : State) : Prop where
  data : Memory.wf s.data = true
  key : Memory.wf s.key = true
  out : Memory.wf s.out = true

theorem State.Canonical.handOver {s : State} (h : s.Canonical) : State.Canonical { s with data := s.out } :=
  { h with data := h.out }

/-- A reset empties OUT and leaves the operands (70_reset_and_hazards.md R125). -/
theorem State.Canonical.resetBlock {s : State} (h : s.Canonical) : (resetBlock s).Canonical :=
  { data := h.data, key := h.key, out := Memory.wf_ofBytes [] }

/-- A command leaves the operands and places its whole output in OUT. -/
theorem issue_keeps_canonical {op : Byte} {s t : State} (hs : s.Canonical) (ht : issue op s = .next t) : t.Canonical := by
  obtain ⟨i, -, hx⟩ := issue_eq_next.1 ht
  obtain ⟨-, rfl⟩ := exec_eq_next.1 hx
  exact { data := hs.data, key := hs.key, out := Memory.wf_ofBytes _ }

theorem hostMove_keeps_canonical {m : HostMove} {s t : State} (hs : s.Canonical) (ht : hostMove m s = .next t) :
    t.Canonical := by
  cases m with
  | putData bs =>
    cases ht
    exact { hs with data := Memory.wf_ofBytes bs }
  | putKey bs =>
    cases ht
    exact { hs with key := Memory.wf_ofBytes bs }
  | passOut =>
    obtain ⟨-, rfl⟩ := handOver_eq_next.1 ht
    exact hs.handOver
  | issue op => exact issue_keeps_canonical hs ht
  | chain op =>
    obtain ⟨-, -, hi⟩ | ⟨c, -, -, rfl⟩ := chainCommand_eq_next.1 ht
    · exact issue_keeps_canonical hs.handOver hi
    · exact hs
  | abandon op =>
    obtain ⟨i, -, -, rfl⟩ := abandonCommand_eq_next.1 ht
    exact hs.resetBlock
  | reset =>
    cases ht
    exact hs.resetBlock
  | readSt | readOkf | readOlen | readHv =>
    obtain ⟨v, -, rfl⟩ := readRegister_eq_next.1 ht
    exact { hs with }
  | readOut a =>
    obtain ⟨n, b, -, -, -, rfl⟩ := readOutByte_eq_next.1 ht
    exact { hs with }

theorem step_keeps_canonical {s t : State} (hs : s.Canonical) (ht : step s = .next t) : t.Canonical := by
  obtain ⟨-, rfl⟩ | ⟨m, rest, -, hm⟩ := step_cases ht
  · exact hs
  · exact hostMove_keeps_canonical (s := { s with host := rest }) { hs with } hm

/-- Settles O58: an idle step changes nothing, and every move of the host keeps the three spaces canonical. -/
theorem stepKeepsMemoryCanonical : Obligations.StepKeepsMemoryCanonical := by
  intro s t hdata hkey hout ht
  obtain ⟨hdata', hkey', hout'⟩ := step_keeps_canonical ⟨hdata, hkey, hout⟩ ht
  exact ⟨hdata', hkey', hout'⟩

/-! ### What a command reads and writes (R31, R33) -/

/-- A command has two outcomes and admission decides between them (30_encoding.md R53). -/
theorem exec_cases (i : Instr) (s : State) :
    (admitted i s = true ∧ exec i s = .next (afterCommand i s)) ∨
    (admitted i s = false ∧ exec i s = .refused .overCapacity) := by
  cases h : admitted i s with
  | true => exact .inl ⟨rfl, exec_of_admitted h⟩
  | false => exact .inr ⟨rfl, exec_of_not_admitted h⟩

/-- Settles O31: neither outcome of a command is a fault, and the only refusal is that of what is not admitted. -/
theorem commandsNeverFault : Obligations.CommandsNeverFault := by
  intro i s
  obtain ⟨h, hx⟩ | ⟨h, hx⟩ := exec_cases i s <;> rw [hx, h]
  · exact ⟨⟨fun _ => rfl, fun _ => ⟨_, rfl⟩⟩, nofun, nofun⟩
  · exact ⟨⟨fun ⟨_, ht⟩ => (nomatch ht), nofun⟩, nofun, fun _ hr => (Host.Outcome.refused.inj hr).symm⟩

/-- What OUT held at issue is no part of the state a command leaves. -/
theorem exec_of_other_out {i : Instr} {s : State} (h : admitted i s = true) (m : Memory) :
    exec i { s with out := m } = .next (afterCommand i s) := by
  rw [exec_of_admitted (s := { s with out := m }) h]
  cases i with
  | xort => rfl
  | fnvd => rfl
  | frame => rfl
  | unfrm => rfl

theorem afterCommand_klen_kidx {i : Instr} (hi : i ≠ .xort) (s : State) :
    (afterCommand i s).klen = s.klen ∧ (afterCommand i s).kidx = s.kidx := by
  cases i with
  | xort => exact absurd rfl hi
  | fnvd => exact ⟨rfl, rfl⟩
  | frame => exact ⟨rfl, rfl⟩
  | unfrm => exact ⟨rfl, rfl⟩

theorem afterCommand_sh {i : Instr} (hi : i ≠ .unfrm) (s : State) : (afterCommand i s).sh = s.sh := by
  cases i with
  | unfrm => exact absurd rfl hi
  | xort => rfl
  | fnvd => rfl
  | frame => rfl

/-- Settles O42: the commands write the latched and working registers, the response and OUT, and no other field. -/
theorem commandFrame : Obligations.CommandFrame := by
  intro i s t ht
  obtain ⟨h, rfl⟩ := exec_eq_next.1 ht
  refine ⟨exec_of_other_out h, fun _ => rfl, fun _ => rfl, Memory.read_ofBytes _, rfl, rfl, rfl, rfl,
    fun hi => afterCommand_klen_kidx hi s, fun hi => afterCommand_sh hi s, ?_, ?_, ?_⟩
  · rintro rfl
    rfl
  · rintro rfl hkey
    have hnil := Memory.bytes_eq_nil_iff.2 hkey
    exact ⟨if_pos hnil, if_pos hnil⟩
  · rintro rfl hshort
    exact ⟨if_pos hshort, if_pos hshort, if_pos hshort⟩

/-! ### The host issues commands (R40) -/

theorem decode_singleton_eq_command {op : Byte} {i : Instr} : decode [op] = .command i [] ↔ decodeByte op = some i := by
  rw [decode]
  cases decodeByte op <;> simp

theorem issue_of_decodeByte {op : Byte} {i : Instr} (h : decodeByte op = some i) (s : State) : issue op s = exec i s := by
  rw [issue, h]

@[simp] theorem decodeByte_opcode (i : Instr) : decodeByte (opcode i) = some i := by
  cases i <;> decide

theorem chainCommand_of_ok {op : Byte} {s : State} {n : Nat} (hst : s.st = some statusOk) (holen : s.olen = some n) :
    chainCommand op s = issue op { s with data := s.out } := by
  simp [chainCommand, handOver, hst, holen]

/-- A command given as its opcode byte's number is placed as an issue of that byte (30_encoding.md R46). -/
theorem withFetchWord_toNat (s : State) (op : Byte) :
    s.withFetchWord 8 op.toNat = { s with host := .issue op :: s.host } := by
  simp [State.withFetchWord, placeCommand, bytesOfNumber]

/-- Settles O4: an issue and a chain after OK both run the command the opcode byte decodes to, and `withFetchWord` places an
issue. -/
theorem stepRunsTheDecodedCommand : Obligations.StepRunsTheDecodedCommand := by
  refine ⟨fun s op rest i hh hd => ?_, fun s op rest i n hh hd hst holen => ?_, fun s i => ?_⟩
  · rw [step_of_move hh]
    exact issue_of_decodeByte (decode_singleton_eq_command.1 hd) _
  · rw [step_of_move hh, hostMove, chainCommand_of_ok (s := { s with host := rest }) hst holen]
    exact issue_of_decodeByte (decode_singleton_eq_command.1 hd) _
  · rw [withFetchWord_toNat, step_of_move rfl]
    exact issue_of_decodeByte (decodeByte_opcode i) s

/-! ### The host places operands (R30) -/

/-- Settles O45: the space named is replaced by the placed bytes, which read back as they were given. -/
theorem hostPlacesOperands : Obligations.HostPlacesOperands := by
  intro s bs rest
  refine ⟨fun hh => ⟨_, step_of_move hh, ?_⟩, fun hh => ⟨_, step_of_move hh, ?_⟩⟩
  all_goals exact ⟨Memory.read_ofBytes bs, Memory.bytes_ofBytes bs, rfl⟩

end Sys2Proof.Machine
end

section
/-! The encoding of commands and of the trailer: the decoder against R52's reserved ranges (30_encoding.md R46, R51, R57), the
refusals at issue (R52, R53), the unused key (R47), and `LE32` with its inverse (R48, R49, 43_checksum_framer.md R89). -/

namespace Sys2Proof

/-! ### The opcode byte (R51, R52) -/

theorem opcodeMap_row {r : OpcodeRow} (hr : r ∈ opcodeMap) : r.mask = 0xFF#8 ∧ r.pattern = opcode r.instr := by
  revert r
  decide

/-- The mask 0xFF matches the byte whole. -/
theorem OpcodeRow.matchesByte_iff {r : OpcodeRow} (hr : r.mask = 0xFF#8) (b : Byte) :
    r.matchesByte b = true ↔ b = r.pattern := by
  rw [matchesByte, hr, show (0xFF#8 : Byte) = BitVec.allOnes 8 from rfl, BitVec.and_allOnes, beq_iff_eq]

theorem decodeByte_eq_some {b : Byte} {i : Instr} : decodeByte b = some i ↔ b = opcode i := by
  constructor
  · intro h
    obtain ⟨r, hr, rfl⟩ := Option.map_eq_some_iff.1 h
    obtain ⟨hmask, hpattern⟩ := opcodeMap_row (List.mem_of_find?_eq_some hr)
    rw [← hpattern]
    exact (OpcodeRow.matchesByte_iff hmask b).1 (List.find?_some (p := fun r : OpcodeRow => r.matchesByte b) hr)
  · rintro rfl
    exact Machine.decodeByte_opcode i

theorem exists_opcode_iff {b : Byte} :
    (∃ i, b = opcode i) ↔ b = 0x01#8 ∨ b = 0x02#8 ∨ b = 0x03#8 ∨ b = 0x04#8 := by
  constructor
  · rintro ⟨i, rfl⟩
    cases i with
    | xort => exact .inl rfl
    | fnvd => exact .inr (.inl rfl)
    | frame => exact .inr (.inr (.inl rfl))
    | unfrm => exact .inr (.inr (.inr rfl))
  · rintro (h | h | h | h)
    · exact ⟨.xort, h⟩
    · exact ⟨.fnvd, h⟩
    · exact ⟨.frame, h⟩
    · exact ⟨.unfrm, h⟩

theorem opcodeReserved_iff {b : Byte} :
    opcodeReserved b = true ↔ b = 0x00#8 ∨ (0x05 ≤ b.toNat ∧ b.toNat ≤ 0xFF) := by
  simp [opcodeReserved, BitVec.le_def]

/-- R52's ranges are exactly what R51 leaves over. -/
theorem opcodeReserved_iff_not_opcode {b : Byte} : opcodeReserved b = true ↔ ¬ ∃ i, b = opcode i := by
  have hb := b.isLt
  rw [opcodeReserved_iff, exists_opcode_iff]
  simp only [← BitVec.toNat_inj, BitVec.toNat_ofNat]
  omega

theorem decodeByte_eq_none {b : Byte} : decodeByte b = none ↔ opcodeReserved b = true := by
  simp only [opcodeReserved_iff_not_opcode, Option.eq_none_iff_forall_ne_some, ne_eq, decodeByte_eq_some, not_exists]

/-! ### The decoder on a sequence of bytes (R57) -/

theorem decode_cons_of_some {b : Byte} {i : Instr} (h : decodeByte b = some i) (bs : List Byte) :
    decode (b :: bs) = .command i bs := by
  rw [decode, h]

theorem decode_cons_of_none {b : Byte} (h : decodeByte b = none) (bs : List Byte) : decode (b :: bs) = .reserved b := by
  rw [decode, h]

theorem decode_eq_command {bs rest : List Byte} {i : Instr} : decode bs = .command i rest ↔ bs = encode i ++ rest := by
  cases bs with
  | nil => exact ⟨nofun, nofun⟩
  | cons b bs =>
    rw [encode, List.singleton_append, List.cons.injEq, ← decodeByte_eq_some]
    cases h : decodeByte b with
    | none => simp [decode_cons_of_none h]
    | some j => simp [decode_cons_of_some h]

theorem decode_eq_reserved {bs : List Byte} {b : Byte} :
    decode bs = .reserved b ↔ ∃ rest, bs = b :: rest ∧ opcodeReserved b = true := by
  constructor
  · intro h
    cases bs with
    | nil => cases h
    | cons c bs =>
      cases hc : decodeByte c with
      | none =>
        rw [decode_cons_of_none hc] at h
        cases h
        exact ⟨bs, rfl, decodeByte_eq_none.1 hc⟩
      | some i =>
        rw [decode_cons_of_some hc] at h
        cases h
  · rintro ⟨rest, rfl, hb⟩
    exact decode_cons_of_none (decodeByte_eq_none.2 hb) rest

theorem decode_eq_nothing {bs : List Byte} : decode bs = .nothing ↔ bs = [] := by
  cases bs with
  | nil => exact ⟨fun _ => rfl, fun _ => rfl⟩
  | cons b bs =>
    cases h : decodeByte b with
    | none => simp [decode_cons_of_none h]
    | some i => simp [decode_cons_of_some h]

/-- Settles O2: by the first byte, which is some command's opcode or reserved and never both. -/
theorem decodeAndEncodeAgree : Obligations.DecodeAndEncodeAgree :=
  ⟨fun _ _ _ => decode_eq_command, fun _ _ => decode_eq_reserved, fun _ => decode_eq_nothing, fun _ => rfl⟩

theorem decode_encode (i : Instr) : decode (encode i) = .command i [] :=
  decode_eq_command.2 (List.append_nil _).symm

/-- Settles O1: the decoder reads back each command's encoding, and the table's numbering is checked per instruction. -/
theorem opcodeWordsDecode : Obligations.OpcodeWordsDecode :=
  ⟨decode_encode .xort, decode_encode .fnvd, decode_encode .frame, decode_encode .unfrm,
    Laws.Encoding.xort.2, Laws.Encoding.fnvd.2, Laws.Encoding.frame.2, Laws.Encoding.unfrm.2⟩

end Sys2Proof

namespace Sys2Proof.Machine

open Host (Outcome)

/-! ### Refusal of reserved opcodes (R52) -/

/-- R52 for one answer to a presented opcode byte: a reserved byte is refused by its own name, and none of the four opcodes is
refused as reserved. -/
def RefusesAsReserved (op : Byte) (o : Outcome State Fault Refusal) : Prop :=
  (op = 0x00#8 ∨ (0x05 ≤ op.toNat ∧ op.toNat ≤ 0xFF) → o = .refused (.reservedOpcode op)) ∧
  (op = 0x01#8 ∨ op = 0x02#8 ∨ op = 0x03#8 ∨ op = 0x04#8 → ∀ b, o ≠ .refused (.reservedOpcode b))

/-- It is enough to know the answer to a byte that does not decode and to each command's opcode. -/
theorem refusesAsReserved_of {op : Byte} {o : Outcome State Fault Refusal}
    (hnone : decodeByte op = none → o = .refused (.reservedOpcode op))
    (hsome : ∀ i, decodeByte op = some i → ∀ b, o ≠ .refused (.reservedOpcode b)) : RefusesAsReserved op o := by
  refine ⟨fun hr => hnone (decodeByte_eq_none.2 (opcodeReserved_iff.2 hr)), fun ho => ?_⟩
  obtain ⟨i, hi⟩ := exists_opcode_iff.2 ho
  exact hsome i (decodeByte_eq_some.2 hi)

theorem exec_ne_reservedOpcode (i : Instr) (s : State) (b : Byte) : exec i s ≠ .refused (.reservedOpcode b) := by
  obtain ⟨-, hx⟩ | ⟨-, hx⟩ := exec_cases i s <;> rw [hx] <;> nofun

theorem issue_refusesAsReserved (op : Byte) (s : State) : RefusesAsReserved op (issue op s) := by
  refine refusesAsReserved_of (fun h => ?_) (fun i h => ?_)
  · rw [issue, h]
  · rw [issue_of_decodeByte h]
    exact exec_ne_reservedOpcode i s

theorem abandonCommand_refusesAsReserved (op : Byte) (s : State) : RefusesAsReserved op (abandonCommand op s) := by
  refine refusesAsReserved_of (fun h => ?_) (fun i h => ?_)
  · rw [abandonCommand, h]
  · rw [abandonCommand, h]
    cases ha : admitted i s <;> simp [ha]

/-- Settles O3: a step with an issue pending is that issue. -/
theorem reservedOpcodesAreRefused : Obligations.ReservedOpcodesAreRefused := by
  intro s op rest hh
  rw [step_of_move hh]
  exact issue_refusesAsReserved op _

/-- Settles O60: `abandon` decodes as `issue` does, and `chain` after OK is an issue on the DATA handed on. -/
theorem chainAndAbandonRefuseReservedOpcodes : Obligations.ChainAndAbandonRefuseReservedOpcodes := by
  rintro s op rest (hh | ⟨hh, hst, holen⟩)
  · rw [step_of_move hh]
    exact abandonCommand_refusesAsReserved op _
  · obtain ⟨n, hn⟩ := Option.ne_none_iff_exists'.1 holen
    rw [step_of_move hh, hostMove, chainCommand_of_ok (s := { s with host := rest }) hst hn]
    exact issue_refusesAsReserved op _

/-! ### Admission by capacity (R53) -/

theorem admitted_iff_of_lenw {s : State} {w : Nat} (hw : s.cfg.lenw = some w) (i : Instr) :
    admitted i s = true ↔ Memory.len s.data ≤ 2 ^ w - 1 ∧ (i = .xort → Memory.len s.key ≤ 2 ^ w - 1) ∧
      (i = .frame → Memory.len s.data + 4 ≤ 2 ^ w - 1) := by
  cases i with
  | xort => simp [admitted_xort, fits_iff_le hw]
  | fnvd => simp [admitted_fnvd, fits_iff_le hw]
  | frame => simp [admitted_frame, fits_iff_le hw]
  | unfrm => simp [admitted_unfrm, fits_iff_le hw]

theorem admitted_of_unbounded {s : State} (hw : s.cfg.lenw = none) (i : Instr) : admitted i s = true := by
  cases i with
  | xort => simp [admitted_xort, fits_of_unbounded hw]
  | fnvd => simp [admitted_fnvd, fits_of_unbounded hw]
  | frame => simp [admitted_frame, fits_of_unbounded hw]
  | unfrm => simp [admitted_unfrm, fits_of_unbounded hw]

/-- Settles O32: admission decides between the two outcomes of a command, and it is R53's bounds. -/
theorem capacityDecidesAdmission : Obligations.CapacityDecidesAdmission := by
  refine fun i s => ⟨fun w hw => ?_, fun hw => ⟨_, exec_of_admitted (admitted_of_unbounded hw i)⟩⟩
  rw [← admitted_iff_of_lenw hw i]
  exact ⟨fun h => ⟨_, exec_of_admitted h⟩, fun h => exec_of_not_admitted (Bool.eq_false_iff.2 h)⟩

/-! ### The unused key (R47) -/

theorem admitted_of_other_key {i : Instr} (hi : i ≠ .xort) (s : State) (m : Memory) (n : Nat) :
    admitted i { s with key := m, klen := n } = admitted i s := by
  cases i with
  | xort => exact absurd rfl hi
  | fnvd => rfl
  | frame => rfl
  | unfrm => rfl

theorem afterCommand_of_other_key {i : Instr} (hi : i ≠ .xort) (s : State) (m : Memory) (n : Nat) :
    afterCommand i { s with key := m, klen := n } = { afterCommand i s with key := m, klen := n } := by
  cases i with
  | xort => exact absurd rfl hi
  | fnvd => rfl
  | frame => rfl
  | unfrm => rfl

/-- Settles O38: neither admission nor the state left depends on KEY or KLEN. -/
theorem unusedKeyHasNoEffect : Obligations.UnusedKeyHasNoEffect := by
  intro i s t hi ht m n
  obtain ⟨h, rfl⟩ := exec_eq_next.1 ht
  exact exec_eq_next.2 ⟨(admitted_of_other_key hi s m n).trans h, (afterCommand_of_other_key hi s m n).symm⟩

/-! ### The trailer (R48, R49, R89) -/

@[simp] theorem hashByte_toNat (h : Word) (t : Nat) : (hashByte h t).toNat = h.toNat / 2 ^ (8 * t) % 256 := by
  simp [hashByte, Nat.shiftRight_eq_div_pow]

/-- Settles O19: each byte of `LE32` as a number, and the spec's example by evaluation. -/
theorem trailerEncoding : Obligations.TrailerEncoding :=
  ⟨fun h => by simp [le32], by decide⟩

/-- `zext32` keeps a byte's number. -/
@[simp] theorem zext32_toNat (b : Byte) : (zext32 b).toNat = b.toNat := by
  have hb := b.isLt
  simp only [zext32, BitVec.zeroExtend, BitVec.toNat_setWidth]
  omega

/-- A byte placed above `k` bits stays below `2^(k+8)`. -/
theorem add_byte_mul_lt {m k : Nat} (hm : m < 2 ^ k) (b : Byte) : m + b.toNat * 2 ^ k < 2 ^ (k + 8) := by
  have hb : b.toNat + 1 ≤ 2 ^ 8 := b.isLt
  calc m + b.toNat * 2 ^ k < (b.toNat + 1) * 2 ^ k := by rw [Nat.succ_mul]; omega
    _ ≤ 2 ^ 8 * 2 ^ k := Nat.mul_le_mul_right _ hb
    _ = 2 ^ (k + 8) := by rw [Nat.pow_add, Nat.mul_comm]

/-- A byte added above the `k` bits in use counts with the weight `2^k`. -/
theorem add_zext32_shiftLeft_toNat {a : Word} {k : Nat} (ha : a.toNat < 2 ^ k) (hk : k ≤ 24) (b : Byte) :
    (a + zext32 b <<< k).toNat = a.toNat + b.toNat * 2 ^ k := by
  have hsum : a.toNat + b.toNat * 2 ^ k < 2 ^ 32 :=
    (add_byte_mul_lt ha b).trans_le (Nat.pow_le_pow_right (by decide) (by omega))
  rw [BitVec.toNat_add, BitVec.toNat_shiftLeft, zext32_toNat, Nat.shiftLeft_eq, Nat.add_mod_mod, Nat.mod_eq_of_lt hsum]

theorem add_zext32_shiftLeft_lt {a : Word} {k : Nat} (ha : a.toNat < 2 ^ k) (hk : k ≤ 24) (b : Byte) :
    (a + zext32 b <<< k).toNat < 2 ^ (k + 8) :=
  (add_zext32_shiftLeft_toNat ha hk b).trans_lt (add_byte_mul_lt ha b)

/-- The sum of the bytes so far leaves the next byte's place free. -/
theorem le32dec_partial_lt (t0 t1 t2 : Byte) :
    (zext32 t0).toNat < 2 ^ 8 ∧ (zext32 t0 + zext32 t1 <<< 8).toNat < 2 ^ 16 ∧
      (zext32 t0 + zext32 t1 <<< 8 + zext32 t2 <<< 16).toNat < 2 ^ 24 := by
  have h0 : (zext32 t0).toNat < 2 ^ 8 := (zext32_toNat t0).trans_lt t0.isLt
  have h1 : (zext32 t0 + zext32 t1 <<< 8).toNat < 2 ^ 16 := add_zext32_shiftLeft_lt h0 (by decide) t1
  exact ⟨h0, h1, add_zext32_shiftLeft_lt h1 (by decide) t2⟩

theorem le32dec_toNat (t0 t1 t2 t3 : Byte) :
    (le32dec t0 t1 t2 t3).toNat = t0.toNat + t1.toNat * 2 ^ 8 + t2.toNat * 2 ^ 16 + t3.toNat * 2 ^ 24 := by
  obtain ⟨h0, h1, h2⟩ := le32dec_partial_lt t0 t1 t2
  rw [le32dec, add_zext32_shiftLeft_toNat h2 (by decide), add_zext32_shiftLeft_toNat h1 (by decide),
    add_zext32_shiftLeft_toNat h0 (by decide), zext32_toNat]

/-- A word below `2^k` and one shifted left by `k` have no bit in common. -/
theorem and_shiftLeft_eq_zero {a : Word} {k : Nat} (ha : a.toNat < 2 ^ k) (x : Word) : a &&& x <<< k = 0#32 := by
  refine BitVec.eq_of_getLsbD_eq fun j hj => ?_
  rw [BitVec.getLsbD_and, BitVec.getLsbD_shiftLeft, BitVec.getLsbD_zero]
  by_cases hjk : j < k
  · simp [hjk]
  · have haj : a.getLsbD j = false :=
      Nat.testBit_lt_two_pow (ha.trans_le (Nat.pow_le_pow_right (by decide) (Nat.le_of_not_lt hjk)))
    rw [haj, Bool.false_and]

theorem or_eq_xor_of_and_eq_zero {a b : Word} (h : a &&& b = 0#32) : a ||| b = a ^^^ b := by
  refine BitVec.eq_of_getLsbD_eq fun j _ => ?_
  have hj : (a.getLsbD j && b.getLsbD j) = false := by rw [← BitVec.getLsbD_and, h, BitVec.getLsbD_zero]
  rw [BitVec.getLsbD_or, BitVec.getLsbD_xor]
  cases ha : a.getLsbD j with
  | false => rw [Bool.false_or, Bool.false_xor]
  | true =>
    rw [ha, Bool.true_and] at hj
    rw [hj]
    rfl

theorem add_shiftLeft_eq_or {a : Word} {k : Nat} (ha : a.toNat < 2 ^ k) (x : Word) : a + x <<< k = a ||| x <<< k :=
  BitVec.add_eq_or_of_and_eq_zero _ _ (and_shiftLeft_eq_zero ha x)

theorem add_shiftLeft_eq_xor {a : Word} {k : Nat} (ha : a.toNat < 2 ^ k) (x : Word) : a + x <<< k = a ^^^ x <<< k :=
  (add_shiftLeft_eq_or ha x).trans (or_eq_xor_of_and_eq_zero (and_shiftLeft_eq_zero ha x))

/-- Settles O20: each byte goes to bits that the sum so far leaves free, so there is no carry between bytes. -/
theorem trailerDecoding : Obligations.TrailerDecoding := by
  refine ⟨fun t0 t1 t2 t3 => ⟨le32dec_toNat t0 t1 t2 t3, ?_, ?_⟩, by decide⟩
  all_goals obtain ⟨h0, h1, h2⟩ := le32dec_partial_lt t0 t1 t2
  · rw [le32dec, add_shiftLeft_eq_or h2, add_shiftLeft_eq_or h1, add_shiftLeft_eq_or h0]
    rfl
  · rw [le32dec, add_shiftLeft_eq_xor h2, add_shiftLeft_eq_xor h1, add_shiftLeft_eq_xor h0]
    rfl

/-- Settles O21: both sides say that `h`'s four digits to the base 256 are the four bytes. -/
theorem trailerRoundTrip : Obligations.TrailerRoundTrip := by
  intro h t0 t1 t2 t3
  have hh := h.isLt
  have h0 := t0.isLt
  have h1 := t1.isLt
  have h2 := t2.isLt
  have h3 := t3.isLt
  simp only [le32, List.cons.injEq, and_true, ← BitVec.toNat_inj, hashByte_toNat, le32dec_toNat]
  omega

end Sys2Proof.Machine
end

section
/-! The repeating-key XOR (41_xor_cipher.md): the formula (R60), the whole state XORT leaves (R61), the self-inverse (R63), and
splitting with a rotated key and repeated keys (R66). -/

namespace Sys2Proof.Machine

/-! ### The function (R60) -/

theorem xorTransform_nil (d : List Byte) : xorTransform d [] = .err .invalidKey := rfl

theorem xorTransform_of_key (d : List Byte) {k : List Byte} (hk : k ≠ []) : xorTransform d k = .ok (xorBytes d k) :=
  if_neg hk

theorem xorBytes_getElem? (d k : List Byte) (i : Nat) :
    (xorBytes d k)[i]? = (d[i]?).map fun b => b ^^^ k.getD (i % k.length) 0#8 := by
  rw [xorBytes, xorFrom_getElem?, Nat.zero_add]

/-- Settles O6: the byte of the key at `i mod len(K)` is the one the transform meets at `i`. -/
theorem xorTransformFormula : Obligations.XorTransformFormula := by
  refine fun d k => ⟨?_, fun hk => ⟨_, xorTransform_of_key d hk, xorBytes_length d k, fun i b c hb hc => ?_⟩⟩
  · rintro rfl
    exact xorTransform_nil d
  · rw [xorBytes_getElem?, hb, Option.map_some, List.getD_eq_getElem?_getD, hc, Option.getD_some]

/-! ### The command (R61) -/

/-- R60's formula as the list of its values at the indices of `D`. -/
theorem xorBytes_eq_map_range (d k : List Byte) :
    xorBytes d k = (List.range d.length).map fun i => d.getD i 0#8 ^^^ k.getD (i % k.length) 0#8 := by
  refine List.ext_getElem? fun i => ?_
  rw [xorBytes_getElem?, List.getElem?_map]
  by_cases hi : i < d.length
  · simp [hi]
  · simp [Nat.le_of_not_lt hi]

/-- Settles O7: the two outcomes of XORT are the two equations of its execution. -/
theorem xortRuns : Obligations.XortRuns := by
  intro s h d k
  split_ifs with hk
  · exact exec_xort_of_empty_key h hk
  · rw [← xorBytes_eq_map_range]
    exact exec_xort_of_key h hk

/-! ### Self-inverse (R63) -/

theorem xorBytes_xorBytes (d k : List Byte) : xorBytes (xorBytes d k) k = d := by
  refine List.ext_getElem? fun i => ?_
  rw [xorBytes_getElem?, xorBytes_getElem?]
  cases d[i]? with
  | none => rfl
  | some b => simp

/-- Settles O8: both transforms meet the same key byte at each index, and it cancels. -/
theorem xorIsSelfInverse : Obligations.XorIsSelfInverse := fun d k hk =>
  ⟨xorBytes d k, xorTransform_of_key d hk, by rw [xorTransform_of_key _ hk, xorBytes_xorBytes]⟩

/-! ### Splitting, and repeated keys (R66) -/

/-- Two keys that agree byte by byte, read cyclically from the positions `p` and `q`, transform alike. -/
theorem xorFrom_congr {k l : List Byte} {p q : Nat}
    (h : ∀ i, k.getD ((p + i) % k.length) 0#8 = l.getD ((q + i) % l.length) 0#8) (d : List Byte) :
    xorFrom k p d = xorFrom l q d := by
  refine List.ext_getElem? fun i => ?_
  rw [xorFrom_getElem?, xorFrom_getElem?, h]

theorem rotateKey_eq_rotate (k : List Byte) (n : Nat) : rotateKey k n = k.rotate n :=
  List.rotate_eq_drop_append_take_mod.symm

/-- A transform that starts with the key rotated by `n` is one that starts at the position `n`. -/
theorem xorBytes_rotateKey {k : List Byte} (hk : k ≠ []) (d : List Byte) (n : Nat) :
    xorBytes d (rotateKey k n) = xorFrom k n d := by
  refine xorFrom_congr (fun i => ?_) d
  have hlt : i % k.length < k.length := Nat.mod_lt _ (List.length_pos_of_ne_nil hk)
  rw [rotateKey_eq_rotate, List.length_rotate, Nat.zero_add, List.getD_eq_getElem?_getD, List.getElem?_rotate hlt,
    Nat.mod_add_mod, Nat.add_comm i n, List.getD_eq_getElem?_getD]

theorem getElem?_flatten_replicate {n i : Nat} {k : List Byte} (hi : i < n * k.length) :
    (List.replicate n k).flatten[i]? = k[i % k.length]? := by
  induction n generalizing i with
  | zero => omega
  | succ n ih =>
    rw [List.replicate_succ, List.flatten_cons]
    by_cases h : i < k.length
    · rw [List.getElem?_append_left h, Nat.mod_eq_of_lt h]
    · have hle : k.length ≤ i := Nat.le_of_not_lt h
      rw [List.getElem?_append_right hle, ih (by rw [Nat.succ_mul] at hi; omega), ← Nat.mod_eq_sub_mod hle]

/-- Repeating a key does not change the bytes it gives cyclically. -/
theorem xorBytes_flatten_replicate {k : List Byte} (hk : k ≠ []) {n : Nat} (hn : 0 < n) (d : List Byte) :
    xorBytes d (List.replicate n k).flatten = xorBytes d k := by
  refine xorFrom_congr (fun i => ?_) d
  have hlen : (List.replicate n k).flatten.length = n * k.length := by simp
  have hlt : (0 + i) % (n * k.length) < n * k.length :=
    Nat.mod_lt _ (Nat.mul_pos hn (List.length_pos_of_ne_nil hk))
  rw [hlen, List.getD_eq_getElem?_getD, getElem?_flatten_replicate hlt, Nat.mod_mul_left_mod,
    List.getD_eq_getElem?_getD]

/-- Settles O10: `B`'s bytes stand `len(A)` further on in the key, and a repeated key has the same cyclic bytes. -/
theorem xorSplitsWithRotatedKey : Obligations.XorSplitsWithRotatedKey := by
  refine ⟨fun a b k hk => ?_, fun d k n hk hn => ?_⟩
  · rw [xorTransform_of_key _ hk, xorBytes_rotateKey hk, xorBytes, xorFrom_append, Nat.zero_add, ← xorBytes]
  · have hrep : (List.replicate n k).flatten ≠ [] := by simp [hk, hn.ne']
    rw [xorTransform_of_key d hk, xorTransform_of_key d hrep, xorBytes_flatten_replicate hk hn]

end Sys2Proof.Machine
end

section
/-! The hash (42_fnv_hasher.md): the step as XOR then product (R71, R74, R75), the recurrence (R70), what FNVD leaves (R72, R78),
and the step's and the digest's injectivity (R77). -/

namespace Sys2Proof.Machine

/-! ### The step (R71, R74, R75) -/

/-- The word the step multiplies: bits 31:8 of the accumulator, and its bits 7:0 XORed with the byte's (R74). -/
theorem xor_zext32_getLsbD (a : Word) (b : Byte) (j : Nat) :
    (8 ≤ j → (a ^^^ zext32 b).getLsbD j = a.getLsbD j) ∧
      (j < 8 → (a ^^^ zext32 b).getLsbD j = (a.getLsbD j != b.getLsbD j)) := by
  rw [BitVec.getLsbD_xor, zext32, BitVec.zeroExtend, BitVec.getLsbD_setWidth]
  refine ⟨fun hj => ?_, fun hj => ?_⟩
  · rw [BitVec.getLsbD_of_ge b j hj, Bool.and_false, Bool.xor_false]
  · rw [decide_eq_true (by omega : j < 32), Bool.true_and, Bool.bne_eq_xor]

/-- A byte has no bit above its low eight, so the XOR leaves bits 31:8 of the accumulator (R71). -/
theorem xor_zext32_shiftRight (a : Word) (b : Byte) : (a ^^^ zext32 b) >>> 8 = a >>> 8 := by
  refine BitVec.eq_of_getLsbD_eq fun j _ => ?_
  rw [BitVec.getLsbD_ushiftRight, BitVec.getLsbD_ushiftRight]
  exact (xor_zext32_getLsbD a b (8 + j)).1 (Nat.le_add_right 8 j)

theorem fnvStep_toNat (a : Word) (b : Byte) :
    (fnvStep a b).toNat = ((a ^^^ zext32 b).toNat * 16777619) % 2 ^ 32 := by
  rw [fnvStep, BitVec.toNat_mul, Nat.mul_comm]
  rfl

/-- Settles O11: the product with the prime as a number, and the bits a zero-extended byte cannot reach. -/
theorem fnvStepFormula : Obligations.FnvStepFormula := fun a b =>
  ⟨fnvStep_toNat a b, xor_zext32_shiftRight a b⟩

/-- The binary expansion of the prime, `2^24 + 2^8 + 2^7 + 2^4 + 2^1 + 2^0` (R75). -/
theorem fnvPrime_eq_sum_twoPow :
    fnvPrime = 1 + BitVec.twoPow 32 1 + BitVec.twoPow 32 4 + BitVec.twoPow 32 7 + BitVec.twoPow 32 8 + BitVec.twoPow 32 24 := by
  decide

/-- Settles O15: a shift multiplies by a power of two, and the prime is the sum of those powers. -/
theorem fnvMultiplyIsShiftAdd : Obligations.FnvMultiplyIsShiftAdd := by
  intro a b x
  calc fnvStep a b = fnvPrime * x := rfl
    _ = x + x * BitVec.twoPow 32 1 + x * BitVec.twoPow 32 4 + x * BitVec.twoPow 32 7 + x * BitVec.twoPow 32 8
          + x * BitVec.twoPow 32 24 := by rw [fnvPrime_eq_sum_twoPow]; ring
    _ = _ := by simp only [BitVec.mul_twoPow_eq_shiftLeft]

/-! ### The recurrence and the command (R70, R72, R78) -/

theorem fnvFrom_eq_of_steps {a : Nat → Word} {bs : List Byte}
    (h : ∀ (i : Nat) (b : Byte), bs[i]? = some b → a (i + 1) = fnvStep (a i) b) : fnvFrom (a 0) bs = a bs.length := by
  induction bs generalizing a with
  | nil => rfl
  | cons b bs ih =>
    rw [fnvFrom_cons, ← h 0 b rfl]
    exact ih (a := fun i => a (i + 1)) fun i c hc => h (i + 1) c hc

/-- Settles O12: the sequence's values are the accumulators of the fold. -/
theorem fnvDigestRecurrence : Obligations.FnvDigestRecurrence := fun bs a h0 hstep => by
  rw [fnv1a32, fnvOffsetBasis, ← h0]
  exact fnvFrom_eq_of_steps hstep

/-- Appending a byte is one more step (R77 (d)). -/
theorem fnv1a32_concat (p : List Byte) (b : Byte) : fnv1a32 (p ++ [b]) = fnvStep (fnv1a32 p) b :=
  fnvFrom_append _ p [b]

theorem afterCommand_fnvd_acc (s : State) : (afterCommand .fnvd s).acc = fnv1a32 (Memory.bytes s.data) := rfl

theorem afterCommand_fnvd_hv (s : State) : (afterCommand .fnvd s).hv = some (fnv1a32 (Memory.bytes s.data)) := rfl

/-- Settles O13: the state every admitted FNVD leaves, with the length of its pass for IDX. -/
theorem fnvdRuns : Obligations.FnvdRuns := fun s h => ⟨idxAfter .fnvd s, exec_of_admitted h⟩

/-- Settles O14: the word multiplied is the accumulator XORed with the zero-extended byte, the digest's last step is such a
product, and the spec's example by evaluation. -/
theorem hashByteIsZeroExtended : Obligations.HashByteIsZeroExtended := by
  refine ⟨fun a b => ⟨_, rfl, xor_zext32_getLsbD a b⟩, fun s p b h hp => ?_, by decide, by decide⟩
  have hacc : (afterCommand .fnvd s).acc = fnvStep (fnv1a32 p) b := by
    rw [afterCommand_fnvd_acc, hp, fnv1a32_concat]
  exact ⟨_, _, exec_of_admitted h, hacc, xor_zext32_getLsbD _ b⟩

/-- Settles O18: FNVD delivers the digest of DATA, and the five digests are evaluated. -/
theorem fnvdKnownVectors : Obligations.FnvdKnownVectors := by
  intro bs h hmem
  have hdigest : fnv1a32 bs = h := (by decide : ∀ v ∈ _, fnv1a32 v.1 = v.2) (bs, h) hmem
  refine ⟨_, exec_of_admitted (admitted_of_unbounded rfl .fnvd), ?_⟩
  rw [afterCommand_fnvd_hv, Memory.bytes_ofBytes, hdigest]

/-! ### Nothing is lost in a step (R77) -/

/-- The prime is odd, so it has an inverse modulo 2^32. -/
theorem isUnit_fnvPrime : IsUnit fnvPrime :=
  .of_mul_eq_one 0x359c449b#32 (by decide)

theorem fnvPrime_mul_bijective : Function.Bijective (fnvPrime * ·) :=
  IsUnit.isUnit_iff_mulLeft_bijective.1 isUnit_fnvPrime

theorem xor_involutive (x : Word) : Function.Involutive (· ^^^ x) := fun a => by
  simp only [BitVec.xor_assoc, BitVec.xor_self, BitVec.xor_zero]

theorem fnvStep_bijective (b : Byte) : Function.Bijective fun a => fnvStep a b :=
  fnvPrime_mul_bijective.comp (xor_involutive (zext32 b)).bijective

theorem zext32_injective : Function.Injective zext32 := fun b c h =>
  BitVec.eq_of_toNat_eq (by rw [← zext32_toNat b, h, zext32_toNat])

theorem fnvStep_injective (a : Word) : Function.Injective (fnvStep a) := fun _ _ h =>
  zext32_injective ((BitVec.xor_right_inj a).1 (fnvPrime_mul_bijective.1 h))

/-- Settles O16: an XOR with a constant and a product with an odd number are both bijections, and zero-extension is injective. -/
theorem fnvStepIsBijective : Obligations.FnvStepIsBijective :=
  ⟨fnvStep_bijective, fnvStep_injective⟩

/-- Bytes hashed after two accumulators differ never make them equal. -/
theorem fnvFrom_injective (bs : List Byte) : Function.Injective fun a => fnvFrom a bs := by
  induction bs with
  | nil => exact Function.injective_id
  | cons b bs ih => exact ih.comp (fnvStep_bijective b).1

/-- Settles O17: the differing byte makes the accumulators differ, and the bytes after it keep them apart. -/
theorem oneByteChangesTheDigest : Obligations.OneByteChangesTheDigest := by
  intro p q b c hbc heq
  rw [fnv1a32, fnv1a32, fnvFrom_append, fnvFrom_append, fnvFrom_cons, fnvFrom_cons] at heq
  exact hbc (fnvStep_injective _ (fnvFrom_injective q heq))

end Sys2Proof.Machine
end

section
/-! The checksum framer (43_checksum_framer.md): the formulas of Frame and Unframe (R80, R84), the whole states FRAME and UNFRM
leave (R81, R85), the round trip (R89) and the detection of tampering (R90). -/

namespace Sys2Proof.Machine

/-! ### Frame and FRAME (R80, R81) -/

/-- Settles O22: a frame is its payload followed by `LE32` of the digest, whose bytes are the digest's digits to the base 256. -/
theorem frameFormula : Obligations.FrameFormula := by
  intro p h
  rw [frame_length, frame, List.take_left, List.drop_left]
  exact ⟨rfl, rfl, trailerEncoding.1 (fnv1a32 p)⟩

/-- The trailer's byte `t` is the bit field `ACC[8t+7 : 8t]` of R81. -/
theorem hashByte_eq_extractLsb' (h : Word) (t : Nat) : hashByte h t = h.extractLsb' (8 * t) 8 := by
  rw [← BitVec.toNat_inj, hashByte_toNat, BitVec.extractLsb'_toNat, Nat.shiftRight_eq_div_pow]

/-- Settles O23: the state every admitted FRAME leaves, with the trailer's bytes as bit fields of the digest. -/
theorem frameRuns : Obligations.FrameRuns := by
  intro s h p d
  have htrailer : [d.extractLsb' 0 8, d.extractLsb' 8 8, d.extractLsb' 16 8, d.extractLsb' 24 8] = le32 d := by
    simp only [le32, hashByte_eq_extractLsb']
  rw [htrailer]
  exact ⟨Memory.len s.data, exec_frame h⟩

/-! ### Unframe and UNFRM (R84, R85) -/

theorem unframe_of_short {f : List Byte} (h : f.length < trailerLen) : unframe f = .err .tooShort :=
  if_pos h

theorem payloadOf_append {tr : List Byte} (h : tr.length = trailerLen) (p : List Byte) : payloadOf (p ++ tr) = p := by
  rw [payloadOf, List.length_append, h, Nat.add_sub_cancel, List.take_left]

theorem storedHash_append (p : List Byte) (t0 t1 t2 t3 : Byte) :
    storedHash (p ++ [t0, t1, t2, t3]) = le32dec t0 t1 t2 t3 := by
  simp [storedHash]

theorem unframe_append (p : List Byte) (t0 t1 t2 t3 : Byte) : unframe (p ++ [t0, t1, t2, t3]) =
    if fnv1a32 p ≠ le32dec t0 t1 t2 t3 then .err .checksumMismatch else .ok p := by
  have hlong : ¬ (p ++ [t0, t1, t2, t3]).length < trailerLen := by simp [trailerLen]
  rw [unframe, if_neg hlong, payloadOf_append rfl, storedHash_append]

/-- A buffer that is not too short splits into its payload part and a trailer. -/
theorem exists_append_trailer {f : List Byte} (h : trailerLen ≤ f.length) :
    ∃ p t0 t1 t2 t3, f = p ++ [t0, t1, t2, t3] := by
  have hdrop : (f.drop (f.length - trailerLen)).length = trailerLen := by
    rw [List.length_drop, Nat.sub_sub_self h]
  obtain ⟨t0, t1, t2, t3, htr⟩ := List.length_eq_four.1 hdrop
  exact ⟨_, t0, t1, t2, t3, by rw [← htr, List.take_append_drop]⟩

/-- Settles O24: the length decides the first case, and the digest against the trailer's number the other two. -/
theorem unframeFormula : Obligations.UnframeFormula := by
  refine fun f => ⟨unframe_of_short, ?_, exists_append_trailer⟩
  rintro p t0 t1 t2 t3 rfl
  rw [unframe_append]
  exact ⟨fun h => if_pos h, fun h => if_neg (not_not.2 h)⟩

/-- Settles O25: the three outcomes of UNFRM are the three equations of its execution. -/
theorem unfrmRuns : Obligations.UnfrmRuns := by
  intro s h f m d stored
  refine ⟨m - trailerLen, ?_⟩
  split_ifs with hs hm
  · exact exec_unfrm_of_short h hs
  · exact exec_unfrm_of_mismatch h (Nat.le_of_not_lt hs) hm
  · exact exec_unfrm_of_match h (Nat.le_of_not_lt hs) (not_not.1 hm)

/-! ### Round trip (R89) -/

/-- Against the trailer's bytes instead of its number: a payload is verified exactly when its own `LE32` follows it. -/
theorem unframe_append_trailer {tr : List Byte} (h : tr.length = trailerLen) (p : List Byte) :
    unframe (p ++ tr) = if tr = le32 (fnv1a32 p) then .ok p else .err .checksumMismatch := by
  obtain ⟨t0, t1, t2, t3, rfl⟩ := List.length_eq_four.1 h
  rw [unframe_append, ite_not]
  exact if_congr (eq_comm.trans ((trailerRoundTrip _ t0 t1 t2 t3).symm.trans eq_comm)) rfl rfl

theorem unframe_frame (p : List Byte) : unframe (frame p) = .ok p := by
  rw [frame, unframe_append_trailer (le32_length _), if_pos rfl]

theorem unframe_eq_ok {f p : List Byte} : unframe f = .ok p ↔ f = frame p := by
  refine ⟨fun h => ?_, fun h => h ▸ unframe_frame p⟩
  by_cases hs : f.length < trailerLen
  · rw [unframe_of_short hs] at h
    cases h
  obtain ⟨q, t0, t1, t2, t3, rfl⟩ := exists_append_trailer (Nat.le_of_not_lt hs)
  rw [unframe_append_trailer rfl] at h
  split_ifs at h with htr
  cases h
  rw [htr, frame]

/-- What FRAME was admitted for, its output included, UNFRM is admitted for (R53). -/
theorem admitted_unfrm_of_frame {s t : State} (h : admitted .frame s = true) (hcfg : t.cfg = s.cfg)
    (hdata : Memory.bytes t.data = frame (Memory.bytes s.data)) : admitted .unfrm t = true := by
  rw [admitted_unfrm, Memory.len, hcfg, hdata, frame_length]
  exact ((admitted_frame s).1 h).2

/-- Settles O27: FRAME's OUT is the frame of DATA, and Unframe undoes Frame and accepts nothing else. -/
theorem frameThenUnframe : Obligations.FrameThenUnframe := by
  refine ⟨fun s h => ?_, fun f p => unframe_eq_ok⟩
  have hframed : Memory.bytes (afterCommand .frame s).out = frame (Memory.bytes s.data) := Memory.bytes_ofBytes _
  have hadm : admitted .unfrm { afterCommand .frame s with data := (afterCommand .frame s).out } = true :=
    admitted_unfrm_of_frame h rfl hframed
  obtain ⟨u, hu, hresp⟩ := unfrm_refines_unframe hadm
  rw [hframed, unframe_frame] at hresp
  exact ⟨_, u, exec_of_admitted h, hu, congrArg Response.okf hresp, congrArg Response.out hresp⟩

/-! ### Tampering (R90) -/

theorem le32_injective : Function.Injective le32 := fun a b h =>
  ((trailerRoundTrip a _ _ _ _).1 h).symm.trans ((trailerRoundTrip b _ _ _ _).1 rfl)

/-- A byte of the payload set to another value changes the digest (R77 (e)). -/
theorem fnv1a32_set_ne {p : List Byte} {j : Nat} {b : Byte} (hj : j < p.length) (hb : p[j]? ≠ some b) :
    fnv1a32 (p.set j b) ≠ fnv1a32 p := by
  rw [List.getElem?_eq_getElem hj] at hb
  have hne : b ≠ p[j] := fun h => hb (congrArg some h.symm)
  obtain ⟨q, r, hp, -, hset⟩ := List.exists_of_set (a' := b) hj
  exact fun h => oneByteChangesTheDigest q r b p[j] hne (by rw [← hset, h, ← hp])

theorem unframe_of_trailer_ne {tr p : List Byte} (h : tr.length = trailerLen) (hne : tr ≠ le32 (fnv1a32 p)) :
    unframe (p ++ tr) = .err .checksumMismatch := by
  rw [unframe_append_trailer h, if_neg hne]

/-- One changed byte leaves a trailer that is not the payload's: in the payload it changes the digest, in the trailer the
trailer itself (R90 (a), (b)). -/
theorem unframe_frame_set {p : List Byte} {j : Nat} {b : Byte} (hb : (frame p)[j]? ≠ some b) (hj : j < p.length + 4) :
    unframe ((frame p).set j b) = .err .checksumMismatch := by
  rw [frame] at hb ⊢
  by_cases hp : j < p.length
  · rw [List.getElem?_append_left hp] at hb
    rw [List.set_append_left _ _ hp]
    exact unframe_of_trailer_ne (le32_length _) fun h => fnv1a32_set_ne hp hb (le32_injective h).symm
  · have hle : p.length ≤ j := Nat.le_of_not_lt hp
    rw [List.getElem?_append_right hle] at hb
    rw [List.set_append_right _ _ hle]
    refine unframe_of_trailer_ne (List.length_set.trans (le32_length _)) fun h => hb ?_
    rw [← h, List.getElem?_set_self (by rw [le32_length]; omega)]

/-- UNFRM of a buffer that Unframe rejects answers its error and delivers nothing (R85, 60_exceptions.md R112). -/
theorem exec_unfrm_of_err {s : State} {e : ErrorKind} (h : admitted .unfrm s = true)
    (he : unframe (Memory.bytes s.data) = .err e) :
    ∃ t, exec .unfrm s = .next t ∧ t.st = some e.code ∧ t.okf = some 0#1 ∧ t.olen = some 0 ∧ t.out = [] := by
  have hr : s.responseTo .unfrm = .ofResult (.err e) := congrArg Response.ofResult he
  refine ⟨_, exec_of_admitted h, ?_⟩
  simp only [afterCommand, hr]
  exact ⟨rfl, rfl, rfl, rfl⟩

/-- Settles O28: each clause is a buffer that Unframe rejects. -/
theorem tamperingIsDetected : Obligations.TamperingIsDetected := by
  refine ⟨fun s p j b h hj hb hdata => ?_, fun s p tr h hlen hne hdata => ?_, fun s p n h hn hdata => ?_⟩
  · exact exec_unfrm_of_err h (by rw [hdata, unframe_frame_set hb hj])
  · exact exec_unfrm_of_err h (by rw [hdata, unframe_of_trailer_ne hlen hne])
  · have hshort : ((frame p).take n).length < trailerLen := (List.length_take_le _ _).trans_lt hn
    exact exec_unfrm_of_err h (by rw [hdata, unframe_of_short hshort])

end Sys2Proof.Machine
end

section
/-! The two paths (44_composed_paths.md): how an error stops a path (R101), what the host's moves of ENCRYPT and DECRYPT deliver
(R95, R97, R99), the key phase over the whole frame (R96), and decryption under another key (R98). -/

namespace Sys2Proof.Machine

/-! ### After an error (R101, R136) -/

theorem chainCommand_of_error {op : Byte} {s : State} {c : BitVec 2} (hst : s.st = some c) (hc : c ≠ statusOk) :
    chainCommand op s = .next s :=
  chainCommand_eq_next.2 (.inr ⟨c, hst, hc, rfl⟩)

theorem chainCommand_of_no_value {op : Byte} {s : State} (hst : s.st = none) :
    chainCommand op s = .fault (.noValue .st) := by
  rw [chainCommand, hst]

theorem handOver_of_no_value {s : State} (holen : s.olen = none) : handOver s = .fault (.noValue .out) := by
  rw [handOver, holen]

theorem handOver_of_value {s : State} {n : Nat} (holen : s.olen = some n) : handOver s = .next { s with data := s.out } := by
  rw [handOver, holen]

/-- Settles O46: the host's next move is decided by the value of ST, or of OLEN. -/
theorem errorStopsThePath : Obligations.ErrorStopsThePath := by
  refine fun s op rest => ⟨fun hh => ?_, fun hh => ?_⟩ <;> rw [step_of_move hh]
  · exact ⟨fun c hst hc => chainCommand_of_error (s := { s with host := rest }) hst hc,
      fun hst => chainCommand_of_no_value (s := { s with host := rest }) hst⟩
  · exact ⟨fun n holen => handOver_of_value (s := { s with host := rest }) holen,
      fun holen => handOver_of_no_value (s := { s with host := rest }) holen⟩

/-! ### The functions of the paths (R95, R97) -/

theorem encrypt_of_key (p : List Byte) {k : List Byte} (hk : k ≠ []) : encrypt p k = .ok (xorBytes (frame p) k) :=
  xorTransform_of_key _ hk

theorem decrypt_nil (c : List Byte) : decrypt c [] = .err .invalidKey := rfl

theorem decrypt_of_key (c : List Byte) {k : List Byte} (hk : k ≠ []) : decrypt c k = unframe (xorBytes c k) := by
  rw [decrypt, xorTransform_of_key c hk]

theorem unframe_of_long {f : List Byte} (h : trailerLen ≤ f.length) :
    unframe f = .err .checksumMismatch ∨ unframe f = .ok (payloadOf f) := by
  rw [unframe, if_neg (Nat.not_lt.2 h)]
  exact ite_eq_or_eq _ _ _

/-! ### The host's moves of a path -/

/-- The state in which a path issues its first command: the operands are placed and these moves are still to come. -/
def State.placed (s : State) (d k : List Byte) (rest : List HostMove) : State :=
  { s with host := rest, data := Memory.ofBytes d, key := Memory.ofBytes k }

@[simp] theorem State.placed_responseTo (s : State) (d k : List Byte) (rest : List HostMove) (i : Instr) :
    (s.placed d k rest).responseTo i = responseOf i d k := by
  simp [State.responseTo, State.placed]

/-- The four moves of a path of the commands `i` and `j`. -/
def pathMoves (i j : Instr) (d k : List Byte) : List HostMove :=
  [.putKey k, .putData d, .issue (opcode i), .chain (opcode j)]

theorem encryptMoves_eq (p k : List Byte) : encryptMoves p k = pathMoves .frame .xort p k := rfl

theorem decryptMoves_eq (c k : List Byte) : decryptMoves c k = pathMoves .xort .unfrm c k := rfl

theorem runSteps_of_move {s : State} {m : HostMove} {rest : List HostMove} (h : s.host = m :: rest) (n : Nat) :
    runSteps (n + 1) s = andThen (hostMove m { s with host := rest }) (runSteps n) := by
  rw [runSteps, step_of_move h]

theorem runSteps_one (s : State) : runSteps 1 s = step s := by
  rw [runSteps]
  cases step s <;> rfl

/-- The moves of a path place the operands, run the first command, and chain the second. -/
theorem runSteps_pathMoves {s : State} {i j : Instr} {d k : List Byte} {rest : List HostMove}
    (hh : s.host = pathMoves i j d k ++ rest) (hi : admitted i (s.placed d k rest) = true) :
    runSteps 4 s = chainCommand (opcode j) (afterCommand i (s.placed d k rest)) := by
  have hissue : issue (opcode i) (s.placed d k (.chain (opcode j) :: rest)) =
      .next (afterCommand i (s.placed d k (.chain (opcode j) :: rest))) := by
    rw [issue_of_decodeByte (decodeByte_opcode i)]
    exact exec_of_admitted hi
  calc runSteps 4 s
      = runSteps 2 (s.placed d k (.issue (opcode i) :: .chain (opcode j) :: rest)) := by rw [runSteps_of_move hh]; rfl
    _ = runSteps 1 (afterCommand i (s.placed d k (.chain (opcode j) :: rest))) := by
        rw [runSteps_of_move rfl]
        exact congrArg (andThen · (runSteps 1)) hissue
    _ = chainCommand (opcode j) (afterCommand i (s.placed d k rest)) := by
        rw [runSteps_one]
        rfl

/-- The four moves of a path lead from `s` to `t`, where OUT and the response registers deliver the result `r`, and the moves
`rest` are still to come. -/
structure PathDelivers (s t : State) (rest : List HostMove) (r : Result) : Prop where
  run : runSteps 4 s = .next t
  host : t.host = rest
  cfg : t.cfg = s.cfg
  out : t.out = Memory.ofBytes (Response.ofResult r).out
  response : t.response = .ofResult r

theorem afterCommand_out (i : Instr) (s : State) : (afterCommand i s).out = Memory.ofBytes (s.responseTo i).out := rfl

theorem pathDelivers_of_afterCommand {s u : State} {i : Instr} {rest : List HostMove} {r : Result}
    (hr : u.responseTo i = .ofResult r) (hhost : u.host = rest) (hcfg : u.cfg = s.cfg)
    (hrun : runSteps 4 s = .next (afterCommand i u)) : PathDelivers s (afterCommand i u) rest r where
  run := hrun
  host := hhost
  cfg := hcfg
  out := by rw [afterCommand_out, hr]
  response := (afterCommand_response i u).trans hr

section Path

variable {s : State} {i j : Instr} {d k : List Byte} {rest : List HostMove}

/-- A path whose first command raises an error ends with that error (R101). -/
theorem path_of_error {e : ErrorKind} (hh : s.host = pathMoves i j d k ++ rest)
    (hi : admitted i (s.placed d k rest) = true) (he : responseOf i d k = .ofResult (.err e)) :
    ∃ t, PathDelivers s t rest (.err e) := by
  have hr : (s.placed d k rest).responseTo i = .ofResult (.err e) := by rw [State.placed_responseTo, he]
  refine ⟨_, pathDelivers_of_afterCommand hr rfl rfl ?_⟩
  rw [runSteps_pathMoves hh hi]
  exact chainCommand_of_error (congrArg Response.st hr) e.code_ne_ok

/-- A path whose first command answers the bytes `o` ends with the second command's result on them (R56, R136). -/
theorem path_of_ok {o : List Byte} {r : Result} (hh : s.host = pathMoves i j d k ++ rest)
    (hi : admitted i (s.placed d k rest) = true) (ho : responseOf i d k = .ofResult (.ok o))
    (hj : admitted j (s.placed o k rest) = true) (hr : responseOf j o k = .ofResult r) :
    ∃ t, PathDelivers s t rest r := by
  have hfirst : (s.placed d k rest).responseTo i = .ofResult (.ok o) := by rw [State.placed_responseTo, ho]
  have hout : (afterCommand i (s.placed d k rest)).out = Memory.ofBytes o := by rw [afterCommand_out, hfirst]; rfl
  have hsecond : State.responseTo { afterCommand i (s.placed d k rest) with data := Memory.ofBytes o } j = .ofResult r :=
    (State.placed_responseTo s o k rest j).trans hr
  refine ⟨_, pathDelivers_of_afterCommand hsecond rfl rfl ?_⟩
  rw [runSteps_pathMoves hh hi, chainCommand_of_ok (congrArg Response.st hfirst) (congrArg Response.olen hfirst), hout,
    issue_of_decodeByte (decodeByte_opcode j)]
  exact exec_of_admitted hj

end Path

/-! ### ENCRYPT and DECRYPT (R95, R97, R99) -/

theorem admitted_frame_placed {s : State} {d k : List Byte} {rest : List HostMove} (hd : fits s.cfg d.length = true)
    (hf : fits s.cfg (d.length + 4) = true) : admitted .frame (s.placed d k rest) = true :=
  (admitted_frame _).2 (by simpa [State.placed] using ⟨hd, hf⟩)

theorem admitted_xort_placed {s : State} {d k : List Byte} {rest : List HostMove} (hd : fits s.cfg d.length = true)
    (hk : fits s.cfg k.length = true) : admitted .xort (s.placed d k rest) = true :=
  (admitted_xort _).2 (by simpa [State.placed] using ⟨hd, hk⟩)

theorem admitted_unfrm_placed {s : State} {d k : List Byte} {rest : List HostMove} (hd : fits s.cfg d.length = true) :
    admitted .unfrm (s.placed d k rest) = true :=
  (admitted_unfrm _).2 (by simpa [State.placed] using hd)

theorem encryptMoves_deliver {s : State} {p k : List Byte} {rest : List HostMove} (hp : fits s.cfg p.length = true)
    (hf : fits s.cfg (p.length + 4) = true) (hk : fits s.cfg k.length = true) (hh : s.host = encryptMoves p k ++ rest) :
    ∃ t, PathDelivers s t rest (encrypt p k) := by
  rw [encryptMoves_eq] at hh
  exact path_of_ok hh (admitted_frame_placed hp hf) rfl (admitted_xort_placed (by rwa [frame_length]) hk) rfl

theorem decryptMoves_deliver {s : State} {c k : List Byte} {rest : List HostMove} (hc : fits s.cfg c.length = true)
    (hk : fits s.cfg k.length = true) (hh : s.host = decryptMoves c k ++ rest) :
    ∃ t, PathDelivers s t rest (decrypt c k) := by
  rw [decryptMoves_eq] at hh
  have hadm := admitted_xort_placed (rest := rest) hc hk
  by_cases hnil : k = []
  · subst hnil
    rw [decrypt_nil]
    exact path_of_error hh hadm rfl
  · rw [decrypt_of_key c hnil]
    have hxor : responseOf .xort c k = .ofResult (.ok (xorBytes c k)) :=
      congrArg Response.ofResult (xorTransform_of_key c hnil)
    exact path_of_ok hh hadm hxor (admitted_unfrm_placed (by rwa [xorBytes_length])) rfl

/-- Settles O49: the moves deliver Encrypt's result, which is as long as the frame. -/
theorem encryptPath : Obligations.EncryptPath := by
  intro s p k rest hp hf hk hh
  obtain ⟨t, ht⟩ := encryptMoves_deliver hp hf hk hh
  refine ⟨t, ht.run, ht.host, ht.response, fun hne => ?_, ?_⟩
  · have hresp := ht.response
    rw [encrypt_of_key p hne, Response.ofResult, xorBytes_length, frame_length] at hresp
    exact ⟨congrArg Response.st hresp, congrArg Response.olen hresp⟩
  · rintro rfl
    exact congrArg Response.st ht.response

/-- Settles O50: the moves deliver Decrypt's result, and the key, then the length, then the trailer decide which it is. -/
theorem decryptPath : Obligations.DecryptPath := by
  intro s c k rest hc hk hh
  obtain ⟨t, ht⟩ := decryptMoves_deliver hc hk hh
  have hst : t.st = (Response.ofResult (decrypt c k)).st := congrArg Response.st ht.response
  refine ⟨t, ht.run, ht.host, ht.response, ?_, fun hne hshort => ?_, fun hne hlong => ?_⟩
  · rintro rfl
    exact hst
  · rw [hst, decrypt_of_key c hne, unframe_of_short (by rwa [xorBytes_length])]
    rfl
  · have hout := ht.out
    have holen : t.olen = (Response.ofResult (decrypt c k)).olen := congrArg Response.olen ht.response
    have hlen : trailerLen ≤ (xorBytes c k).length := by rwa [xorBytes_length]
    obtain hbad | hgood := unframe_of_long hlen
    · rw [decrypt_of_key c hne, hbad] at hst hout
      exact .inl ⟨hst, hout⟩
    · rw [decrypt_of_key c hne, hgood] at hst holen
      rw [Response.ofResult, payloadOf_length, xorBytes_length] at holen
      exact .inr ⟨hst, holen⟩

theorem decrypt_xorBytes_frame (p : List Byte) {k : List Byte} (hk : k ≠ []) :
    decrypt (xorBytes (frame p) k) k = .ok p := by
  rw [decrypt_of_key _ hk, xorBytes_xorBytes, unframe_frame]

/-- Settles O51: the second path starts from the ciphertext the first left in OUT, and Decrypt undoes Encrypt. -/
theorem encryptThenDecrypt : Obligations.EncryptThenDecrypt := by
  intro s p k hne hp hf hk
  have hclen : (xorBytes (frame p) k).length = p.length + 4 := by rw [xorBytes_length, frame_length]
  obtain ⟨t, ht⟩ := encryptMoves_deliver (s := { s with host := encryptMoves p k }) hp hf hk (List.append_nil _).symm
  have hcfg : t.cfg = s.cfg := ht.cfg
  obtain ⟨u, hu⟩ := decryptMoves_deliver (s := { t with host := decryptMoves (xorBytes (frame p) k) k })
    (by rwa [hcfg, hclen]) (by rwa [hcfg]) (List.append_nil _).symm
  have henc := ht.response
  have hdec := hu.response
  rw [encrypt_of_key p hne] at henc
  rw [decrypt_xorBytes_frame p hne] at hdec
  exact ⟨_, t, u, encrypt_of_key p hne, ht.run, congrArg Response.out henc, hu.run, congrArg Response.okf hdec,
    congrArg Response.out hdec⟩

/-! ### The key phase (R96) -/

theorem frame_getElem?_payload {p : List Byte} {i : Nat} {b : Byte} (h : p[i]? = some b) : (frame p)[i]? = some b := by
  obtain ⟨hi, -⟩ := List.getElem?_eq_some_iff.1 h
  rw [frame, List.getElem?_append_left hi, h]

theorem frame_getElem?_trailer (p : List Byte) (j : Nat) : (frame p)[p.length + j]? = (le32 (fnv1a32 p))[j]? := by
  rw [frame, List.getElem?_append_right (Nat.le_add_right _ _), Nat.add_sub_cancel_left]

/-- Settles O52: R60's formula on the frame, whose trailer stands at `len(P)`. -/
theorem keyPhaseRunsThroughTheTrailer : Obligations.KeyPhaseRunsThroughTheTrailer := by
  intro p k hk
  obtain ⟨o, ho, -, hbyte⟩ := (xorTransformFormula (frame p) k).2 hk
  exact ⟨o, ho, fun i b e hb => hbyte i b e (frame_getElem?_payload hb),
    fun j b e hb => hbyte (p.length + j) b e ((frame_getElem?_trailer p j).trans hb)⟩

/-! ### Wrong keys (R98) -/

theorem getElem?_key {k : List Byte} (hk : k ≠ []) (i : Nat) : k[i % k.length]? = some (k.getD (i % k.length) 0#8) := by
  rw [List.getD_eq_getElem?_getD, List.getElem?_eq_getElem (Nat.mod_lt i (List.length_pos_of_ne_nil hk)), Option.getD_some]

theorem xor_xor_eq_self_iff (b e e' : Byte) : b ^^^ e ^^^ e' = b ↔ e = e' := by
  rw [BitVec.xor_assoc]
  calc b ^^^ (e ^^^ e') = b
      ↔ b ^^^ (e ^^^ e') = b ^^^ (e ^^^ e) := by rw [BitVec.xor_self, BitVec.xor_zero]
    _ ↔ e' = e := (BitVec.xor_right_inj b).trans (BitVec.xor_right_inj e)
    _ ↔ e = e' := eq_comm

/-- A byte survives two transforms exactly where the two keys' streams agree. -/
theorem xorBytes_xorBytes_getElem?_eq_iff {d k k' : List Byte} (hk : k ≠ []) (hk' : k' ≠ []) {i : Nat} (hi : i < d.length) :
    (xorBytes (xorBytes d k) k')[i]? = d[i]? ↔ k[i % k.length]? = k'[i % k'.length]? := by
  rw [xorBytes_getElem?, xorBytes_getElem?, getElem?_key hk, getElem?_key hk', List.getElem?_eq_getElem hi, Option.map_some,
    Option.map_some, Option.some_inj, Option.some_inj, xor_xor_eq_self_iff]

/-- Two lists of one length that agree except at `j` are one element's replacement apart. -/
theorem eq_set_of_agree_except {x d : List Byte} {j : Nat} (hlen : x.length = d.length) (hj : j < x.length)
    (h : ∀ i, i < d.length → i ≠ j → x[i]? = d[i]?) : x = d.set j x[j] := by
  refine List.ext_getElem? fun i => ?_
  by_cases hij : i = j
  · rw [hij, List.getElem?_set_self (hlen ▸ hj), List.getElem?_eq_getElem hj]
  rw [List.getElem?_set_ne (Ne.symm hij)]
  by_cases hi : i < d.length
  · exact h i hi hij
  · rw [List.getElem?_eq_none (by omega), List.getElem?_eq_none (by omega)]

theorem xorBytes_xorBytes_of_equal_streams {d k k' : List Byte} (hk : k ≠ []) (hk' : k' ≠ [])
    (h : ∀ i, i < d.length → k[i % k.length]? = k'[i % k'.length]?) : xorBytes (xorBytes d k) k' = d := by
  refine List.ext_getElem?' fun i hi => ?_
  rw [xorBytes_length, xorBytes_length, max_self] at hi
  exact (xorBytes_xorBytes_getElem?_eq_iff hk hk' hi).2 (h i hi)

/-- Where the streams of two keys differ at one position alone, one transform after the other changes that byte alone. -/
theorem xorBytes_xorBytes_of_one_difference {d k k' : List Byte} {j : Nat} (hk : k ≠ []) (hk' : k' ≠ []) (hj : j < d.length)
    (h : ∀ i, i < d.length → (k[i % k.length]? = k'[i % k'.length]? ↔ i ≠ j)) :
    ∃ b, xorBytes (xorBytes d k) k' = d.set j b ∧ d[j]? ≠ some b := by
  have survives (i : Nat) (hi : i < d.length) : (xorBytes (xorBytes d k) k')[i]? = d[i]? ↔ i ≠ j :=
    (xorBytes_xorBytes_getElem?_eq_iff hk hk' hi).trans (h i hi)
  have hlen : (xorBytes (xorBytes d k) k').length = d.length := by rw [xorBytes_length, xorBytes_length]
  refine ⟨_, eq_set_of_agree_except hlen (hlen ▸ hj) fun i hi => (survives i hi).2, fun hb => (survives j hj).1 ?_ rfl⟩
  rw [hb, List.getElem?_eq_getElem]

/-- Settles O53: where the streams agree the candidate is the frame; where they differ once it is the frame with one byte
changed, which Unframe rejects (R90). -/
theorem wrongKeyOutcome : Obligations.WrongKeyOutcome := by
  refine ⟨fun p k k' hk hk' h => ⟨_, encrypt_of_key p hk, ?_⟩, fun p k k' j hk hk' hj h => ⟨_, encrypt_of_key p hk, ?_⟩⟩ <;>
    rw [decrypt_of_key _ hk']
  · rw [← frame_length] at h
    rw [xorBytes_xorBytes_of_equal_streams hk hk' h, unframe_frame]
  · have hj' := hj
    rw [← frame_length] at h hj'
    obtain ⟨b, hset, hb⟩ := xorBytes_xorBytes_of_one_difference hk hk' hj' h
    rw [hset, unframe_frame_set hb hj]

end Sys2Proof.Machine
end

section
/-! Errors (60_exceptions.md): what raising one does (R112), the exact causes of the three kinds as conditions on the operand
bytes, and that a completed command has an error's code in ST for its cause alone (R105 to R108). -/

namespace Sys2Proof.Machine

/-! ### Raising an error (R112) -/

/-- Settles O35: kind by kind, `raise` writes R112's values; OKF is 0 because no error's code is that of OK (R19). -/
theorem raiseEffect : Obligations.RaiseEffect := by
  intro e s
  cases e with
  | invalidKey => rfl
  | tooShort => rfl
  | checksumMismatch => rfl

/-! ### The causes (R105 to R108) -/

/-- The exact cause of each error kind, as R105's table gives it: the command that raises it and the condition on its
operands. -/
def ErrorKind.Cause (e : ErrorKind) (i : Instr) (d k : List Byte) : Prop :=
  match e with
  | .invalidKey => i = .xort ∧ k = []
  | .tooShort => i = .unfrm ∧ d.length < trailerLen
  | .checksumMismatch => i = .unfrm ∧ trailerLen ≤ d.length ∧ fnv1a32 (payloadOf d) ≠ storedHash d

/-- FNVD and FRAME raise nothing, ever (R105). -/
theorem ErrorKind.not_cause_of_fnvd_or_frame {i : Instr} (hi : i = .fnvd ∨ i = .frame) (e : ErrorKind) (d k : List Byte) :
    ¬ e.Cause i d k := by
  obtain rfl | rfl := hi <;> cases e <;> simp [ErrorKind.Cause]

theorem xorTransform_eq_err {d k : List Byte} {e : ErrorKind} : xorTransform d k = .err e ↔ e.Cause .xort d k := by
  rw [xorTransform]
  split_ifs with hk
  · cases e <;> simp [ErrorKind.Cause, hk]
  · cases e <;> simp [ErrorKind.Cause, hk]

theorem unframe_eq_err {f k : List Byte} {e : ErrorKind} : unframe f = .err e ↔ e.Cause .unfrm f k := by
  rw [unframe]
  split_ifs with hs hm
  · cases e <;> simp [ErrorKind.Cause, hs, Nat.not_le.2 hs]
  · cases e <;> simp [ErrorKind.Cause, hs, hm, Nat.le_of_not_lt hs]
  · cases e <;> simp [ErrorKind.Cause, hs, not_not.1 hm]

/-! ### The status of a completed command -/

theorem ErrorKind.code_injective : Function.Injective ErrorKind.code := by
  intro e e'
  cases e <;> cases e' <;> simp [ErrorKind.code]

theorem ErrorKind.some_ok_ne_code (e : ErrorKind) : some 0#2 ≠ some e.code :=
  fun h => e.code_ne_ok (Option.some.inj h).symm

theorem Response.ofResult_st_eq_code {r : Result} {e : ErrorKind} : (Response.ofResult r).st = some e.code ↔ r = .err e := by
  cases r with
  | ok bs => exact iff_of_false e.some_ok_ne_code nofun
  | err e' => simp [Response.ofResult, ErrorKind.code_injective.eq_iff]

theorem responseOf_st_eq_code {i : Instr} {d k : List Byte} {e : ErrorKind} :
    (responseOf i d k).st = some e.code ↔ e.Cause i d k := by
  cases i with
  | xort => exact Response.ofResult_st_eq_code.trans xorTransform_eq_err
  | fnvd => exact iff_of_false e.some_ok_ne_code (e.not_cause_of_fnvd_or_frame (.inl rfl) d k)
  | frame => exact iff_of_false e.some_ok_ne_code (e.not_cause_of_fnvd_or_frame (.inr rfl) d k)
  | unfrm => exact Response.ofResult_st_eq_code.trans unframe_eq_err

/-- A completed command has an error's code in ST exactly for that error's cause. -/
theorem exec_st_eq_code {i : Instr} {s t : State} (ht : exec i s = .next t) (e : ErrorKind) :
    t.st = some e.code ↔ e.Cause i (Memory.bytes s.data) (Memory.bytes s.key) := by
  obtain ⟨-, rfl⟩ := exec_eq_next.1 ht
  exact responseOf_st_eq_code

theorem Response.ofResult_st_ok_or_code (r : Result) :
    (Response.ofResult r).st = some 0#2 ∨ ∃ e : ErrorKind, (Response.ofResult r).st = some e.code := by
  cases r with
  | ok bs => exact .inl rfl
  | err e => exact .inr ⟨e, rfl⟩

/-- A completed command has the code of OK or of one of the three errors in ST (R20, R105). -/
theorem exec_st_ok_or_code {i : Instr} {s t : State} (ht : exec i s = .next t) :
    t.st = some 0#2 ∨ ∃ e : ErrorKind, t.st = some e.code := by
  obtain ⟨-, rfl⟩ := exec_eq_next.1 ht
  cases i with
  | xort => exact Response.ofResult_st_ok_or_code _
  | fnvd => exact .inl rfl
  | frame => exact .inl rfl
  | unfrm => exact Response.ofResult_st_ok_or_code _

/-- Settles O33: each code stands in ST for its kind's cause alone, and no other value but that of OK does. -/
theorem errorsAndTheirCauses : Obligations.ErrorsAndTheirCauses := by
  intro i s t ht f m stored
  refine ⟨?_, exec_st_eq_code ht .tooShort, exec_st_eq_code ht .checksumMismatch, fun hne => ?_⟩
  · rw [← Memory.bytes_eq_nil_iff]
    exact exec_st_eq_code ht .invalidKey
  · obtain ⟨e, he⟩ := (exec_st_ok_or_code ht).resolve_left hne
    cases e with
    | invalidKey => exact .inl he
    | tooShort => exact .inr (.inl he)
    | checksumMismatch => exact .inr (.inr he)

/-- Settles O34: UNFRM completes when it is admitted, and the cause of TooShort is the length alone. -/
theorem shortBuffersRaiseTooShort : Obligations.ShortBuffersRaiseTooShort := fun _ h =>
  have ht := exec_of_admitted h
  ⟨_, ht, (exec_st_eq_code ht .tooShort).trans (and_iff_right rfl)⟩

end Sys2Proof.Machine
end

section
/-! Reset and hazards (70_reset_and_hazards.md): a reset keeps all that admission and the response of a command depend on, so
a command that a reset abandons can be issued again (R125). -/

namespace Sys2Proof.Machine

/-! ### What a reset keeps for the commands after it (R125) -/

/-- Admission reads the length bound and the operands alone, and a reset keeps them (R53). -/
@[simp] theorem admitted_resetBlock (i : Instr) (s : State) : admitted i (resetBlock s) = admitted i s := rfl

@[simp] theorem responseTo_resetBlock (i : Instr) (s : State) : (resetBlock s).responseTo i = s.responseTo i := rfl

/-! ### An abandoned command (R125) -/

theorem abandonCommand_of_admitted {op : Byte} {i : Instr} {s : State} (hd : decodeByte op = some i)
    (h : admitted i s = true) : abandonCommand op s = .next (resetBlock s) :=
  abandonCommand_eq_next.2 ⟨i, hd, h, rfl⟩

theorem abandonCommand_of_not_admitted {op : Byte} {i : Instr} {s : State} (hd : decodeByte op = some i)
    (h : admitted i s = false) : abandonCommand op s = .refused .overCapacity := by
  simp [abandonCommand, hd, h]

/-- Whatever moves come after it, the issue of an admitted command completes with the response to the operands in place. -/
theorem step_issue_completes {op : Byte} {i : Instr} {s : State} (hd : decodeByte op = some i) (h : admitted i s = true)
    (more : List HostMove) : ∃ u, step { s with host := .issue op :: more } = .next u ∧ u.response = s.responseTo i := by
  refine ⟨afterCommand i { s with host := more }, ?_, afterCommand_response i _⟩
  rw [step_of_move rfl, hostMove, issue_of_decodeByte hd]
  exact exec_of_admitted h

/-- A command issued again after a reset completes with the response it would have had before it. -/
theorem reissue_after_resetBlock {op : Byte} {i : Instr} {s : State} (hd : decodeByte op = some i)
    (h : admitted i s = true) (more : List HostMove) :
    ∃ u v, step { s with host := .issue op :: more } = .next u ∧
      step { resetBlock s with host := .issue op :: more } = .next v ∧ v.response = u.response := by
  obtain ⟨u, hu, hur⟩ := step_issue_completes hd h more
  obtain ⟨v, hv, hvr⟩ := step_issue_completes hd ((admitted_resetBlock i s).trans h) more
  exact ⟨u, v, hu, hv, by rw [hur, hvr, responseTo_resetBlock]⟩

/-- Settles O47: an idle reset and an abandon both leave what `resetBlock` leaves, and a command's response depends only on what
`resetBlock` keeps. -/
theorem resetAbandonsTheCommand : Obligations.ResetAbandonsTheCommand := by
  refine ⟨fun s rest hh => ⟨_, step_of_move hh, resetBlock_response _, rfl, rfl, rfl, rfl⟩, fun s op rest hh => ?_⟩
  rw [step_of_move hh]
  refine ⟨fun i hd h => ?_, fun i hd h => ?_, (abandonCommand_refusesAsReserved op { s with host := rest }).1⟩
  · have hop := decode_singleton_eq_command.1 hd
    exact ⟨_, abandonCommand_of_admitted (s := { s with host := rest }) hop h, resetBlock_response _, rfl, rfl, rfl, rfl, rfl,
      reissue_after_resetBlock (s := { s with host := rest }) hop h⟩
  · exact abandonCommand_of_not_admitted (s := { s with host := rest }) (decode_singleton_eq_command.1 hd) h

end Sys2Proof.Machine
end

section
/-! The idle step, what a host's read delivers, and the state at reset (10_state.md R12, R20 to R26; 60_exceptions.md R120). -/

namespace Sys2Proof.Machine

/-! ### The idle step (R120) -/

/-- Settles O5: with no move pending there is nothing to take off the list. -/
theorem idleStepChangesNothing : Obligations.IdleStepChangesNothing := fun _ hh => step_of_idle hh

/-! ### What a read delivers (R20 to R22, R30) -/

/-- A read of a byte of OUT that answers a next state found that byte and delivered it. -/
theorem readOutByte_delivers {a : Nat} {s t : State} (ht : readOutByte a s = .next t) :
    ∃ b, Memory.read s.out a = some b ∧ t = deliver (.out a b) s := by
  obtain ⟨n, b, -, -, hread, rfl⟩ := readOutByte_eq_next.1 ht
  exact ⟨b, hread, rfl⟩

/-- Settles O44: the next state of each read is the delivery of the value that stands there. -/
theorem hostReadsDeliverTheValue : Obligations.HostReadsDeliverTheValue := by
  refine fun s t rest ht => ⟨fun hh => ?_, fun hh => ?_, fun hh => ?_, fun hh => ?_, fun a hh => ?_⟩ <;>
    rw [step_of_move hh] at ht
  case refine_5 => exact readOutByte_delivers ht
  all_goals exact readRegister_eq_next.1 ht

/-! ### The state at reset (R12, R25) -/

/-- Settles O55: the fields of State.reset. -/
theorem resetValuesTheModelNames : Obligations.ResetValuesTheModelNames :=
  ⟨rfl, rfl, rfl, rfl, rfl, rfl, rfl, rfl, rfl, rfl, rfl⟩

/-- At reset the spaces are empty, no response register has a value, and every length and index register is 0. -/
theorem State.Inv.reset : State.reset.Inv where
  dataDense := Memory.dense_nil
  keyDense := Memory.dense_nil
  outDense := Memory.dense_nil
  response := .inl ⟨rfl, rfl, rfl, rfl, rfl⟩
  dlenFits := fits_zero _
  klenFits := fits_zero _
  idxFits := fits_zero _
  kidxFits := fits_zero _
  olenFits := fun n hn => by cases hn

/-- Settles O56: with the step lemma `stepKeepsTheInvariant`, the base case of the invariant. -/
theorem resetMeetsTheInvariant : Obligations.ResetMeetsTheInvariant := State.Inv.reset

end Sys2Proof.Machine
end
